-- ==== Sys2Proof/Word.lean ====
section
/-! DEFINITION. The two sizes of word the console and the memories behind the chip use (00, Conventions). -/

namespace Sys2Proof

/-- A word is 16 bits: every console access, every SRAM word and every ROM word is one (00, Conventions). -/
abbrev Word := BitVec 16

/-- A console byte address, 00000h to FFFFFh (00, Conventions). -/
abbrev Address := BitVec 20

end Sys2Proof
end

