-- ==== Sys2Proof/Syntax.lean ====
section
/-! DEFINITION. The commands of the chip: one constructor for each row of spec/opcode_table.json (log 1).
A console transaction carries its byte address and, for a write, its value; a command frame's row carries nothing,
because its words stand in the Command Buffer (log 7); a row about one voice carries the voice's number. -/

namespace Sys2Proof

/-- The supply transitions of R174, one for each line of its table. -/
inductive SupplyChange where
  | absentToRising
  | risingToAbsent
  | risingToGood
  | goodToLow
  | lowToGood
  | toFailing
  | failingToAbsent
  | failingToGood
  deriving DecidableEq, Repr

/-- The commands, in the table's order. -/
inductive Instr where
  -- console transactions (Chapters 1 and 3)
  | romRead (addr : Address)
  | bankSelect (addr : Address) (value : Word)
  | saveStageRead (addr : Address)
  | saveStageWrite (addr : Address) (value : Word)
  | saveLiveRead (addr : Address)
  | flagsRead (addr : Address)
  | triggerWrite (addr : Address) (value : Word)
  | ignoredWrite (addr : Address) (value : Word)
  | dataWrite (addr : Address) (value : Word)
  | responseRead (addr : Address)
  | statusRead (addr : Address)
  -- execution of the frame in the Command Buffer (R34)
  | badOpcode
  | statusQuery
  | tableRead
  | loadTable
  | loadAbort
  | actionRun
  | cuePlay
  | voiceStop
  | soundStopAll
  | soundVolume
  | voiceStatus
  | rumbleStart
  | rumbleCut
  | rumbleEnable
  | rumbleLimits
  | rumbleStatus
  | saveFormat
  | slotSeed
  | slotCommit
  | slotDiscard
  | slotVerify
  | slotInfo
  | flagTest
  | flagSet
  | flagClear
  | flagToggle
  | flagScan
  | flagClearRange
  | clockSet
  | clockRead
  | dayStartSet
  | gameDayRead
  | advanceCapSet
  | timerRun
  | timerStop
  | timerClear
  | timerRead
  | eventTake
  | eventMaskSet
  | sleep
  | wake
  | supplyRead
  -- the blocks' own steps
  | lineFetchWord
  | lineFetchComplete
  | tableCheck
  | outputSample
  | primeLimit (voice : Nat)
  | loopReturn (voice : Nat)
  | cueNaturalEnd (voice : Nat)
  | rampEnd (voice : Nat)
  | tick
  | stepEnd
  | patternFinished
  | kickEnd
  | coastStop
  | endBrakeDone
  | postedWriteDrain
  | flagWordAccess
  | sequencerAccess
  | drainingDone
  | scanDone
  | intentDone
  | switchingDone
  | closingDone
  | seedDone
  | formatDone
  | verifyDone
  | recoveryDone
  | asleepReached
  | calendarSecond
  | playTimerHundredth
  | vccCrossing (millivolts : Nat)
  | supplyStateChange (change : SupplyChange)
  | crstAssert
  | crstRelease
  | vbatChange (millivolts : Option Nat)
  | coinCellLowChange
  | retentionLoss
  | commandWrite (addr : Address) (value : Word)
  deriving DecidableEq, Repr

end Sys2Proof
end

