-- ==== Sys2Proof/WellFormed.lean ====
section
/-! DEFINITION. Which commands name something the chip has: a row about one voice names one of the six (R67).
The other operands are whole ranges of their types. -/

namespace Sys2Proof

/-- The voices are numbered 0 to 5 (R67). -/
def voiceNumberOk (voice : Nat) : Bool := decide (voice < 6)

/-- The check of a command's operands. -/
def Instr.wellFormed : Instr → Bool
  | .primeLimit voice | .loopReturn voice | .cueNaturalEnd voice | .rampEnd voice => voiceNumberOk voice
  | .romRead _ | .saveStageRead _ | .saveLiveRead _ | .flagsRead _ | .responseRead _ | .statusRead _ => true
  | .bankSelect _ _ | .saveStageWrite _ _ | .triggerWrite _ _ | .ignoredWrite _ _ | .dataWrite _ _ => true
  | .commandWrite _ _ => true
  | .badOpcode | .statusQuery | .tableRead | .loadTable | .loadAbort | .actionRun => true
  | .cuePlay | .voiceStop | .soundStopAll | .soundVolume | .voiceStatus => true
  | .rumbleStart | .rumbleCut | .rumbleEnable | .rumbleLimits | .rumbleStatus => true
  | .saveFormat | .slotSeed | .slotCommit | .slotDiscard | .slotVerify | .slotInfo => true
  | .flagTest | .flagSet | .flagClear | .flagToggle | .flagScan | .flagClearRange => true
  | .clockSet | .clockRead | .dayStartSet | .gameDayRead | .advanceCapSet => true
  | .timerRun | .timerStop | .timerClear | .timerRead => true
  | .eventTake | .eventMaskSet | .sleep | .wake | .supplyRead => true
  | .lineFetchWord | .lineFetchComplete | .tableCheck | .outputSample => true
  | .tick | .stepEnd | .patternFinished | .kickEnd | .coastStop | .endBrakeDone => true
  | .postedWriteDrain | .flagWordAccess | .sequencerAccess => true
  | .drainingDone | .scanDone | .intentDone | .switchingDone | .closingDone | .seedDone => true
  | .formatDone | .verifyDone | .recoveryDone | .asleepReached => true
  | .calendarSecond | .playTimerHundredth => true
  | .vccCrossing _ | .supplyStateChange _ | .crstAssert | .crstRelease => true
  | .vbatChange _ | .coinCellLowChange | .retentionLoss => true

end Sys2Proof
end

