-- ==== Sys2Proof/Decode.lean ====
section
/-! DEFINITION. The table gives no row any bits, so no word spells a command. -/

namespace Sys2Proof

/-- The command that a word spells by the bits of spec/opcode_table.json: none, because no row gives bits. -/
def decodeTableWord (_nbits _w : Nat) : Option Instr := none

end Sys2Proof
end

