-- ==== Sys2Proof/Config.lean ====
section
/-! DEFINITION. What the straps fix, and the free values: the outcomes the spec leaves open. A free value is an opaque
constant applied to the counter `free` of the state, so nothing proved can rest on what it is. -/

namespace Sys2Proof.Config

/-- The strapped ROM capacity in pages of 2048 words: 1024, 2048, 4096 or 8192 (00 Pins, R13). -/
def romPages (code : BitVec 2) : Nat := 1024 * 2 ^ code.toNat

/-- The strapped ROM capacity in words (R42). -/
def romWords (code : BitVec 2) : Nat := romPages code * 2048

/-- The SRAM capacity code with code 3 taken as code 0 (R105). -/
def sramCodeTaken (code : BitVec 2) : Nat := if code = 3 then 0 else code.toNat

/-- The strapped SRAM capacity in KiB: 32, 64, 128, and 32 again for code 3 (00 Pins). -/
def sramKiB (code : BitVec 2) : Nat := 32 * 2 ^ sramCodeTaken code

/-- The SRAM words that a loss of retention changes, and what they hold afterwards: open (R185, "may lose its contents"; log 12). -/
opaque sramAfterLoss : Nat → List (Nat × Word)

/-- How many of the Day Schedule's start-up reports come before the Calendar Unit's: open (R166, R172; log 13). -/
opaque startupOrder : Nat → Nat

/-- Which of the six orders the Sound Engine, the Rumble Drive and the Table Loader react to ENTERING_SLEEP in: open
(R168, R180; log 14). -/
opaque sleepOrder : Nat → Nat

end Sys2Proof.Config
end

