-- ==== Sys2Proof/Machine/State.lean ====
section
/-! DEFINITION. The state of the chip, block by block, as plain data, and the state at the end of a first power-on's core
reset. Table entries keep the fields the console loads and reads back; the numbering of codes is Chapter 13's. -/

namespace Sys2Proof.Machine

/-! ## The memories behind the chip -/

/-- A memory of 16-bit words: (word address, word) pairs, addresses strictly rising, none blank (log 3, log 4). -/
abbrev Memory := List (Nat × Word)

/-! ## Bus Decoder (Chapter 1) -/

/-- An entry of the Window Table (R1), its fields as the image gives them (R188), and its current bank.
`spanCode` is span - 1; `target` is the ROM page, the slot or the action base; `count` is bank count - 1 or action count. -/
structure WindowEntry where
  base : BitVec 8
  kind : BitVec 4
  spanCode : BitVec 8
  target : BitVec 13
  bankSelect : Bool
  count : BitVec 8
  bank : Nat
  deriving DecidableEq, Repr

/-! ## ROM Port Controller (Chapter 2) -/

/-- Who may hold a fetch request (R23, R24). -/
inductive Requester where
  | voice (number : Nat)
  | loader
  deriving DecidableEq, Repr

/-- The fetch record (R19): the line address is the address of the line's first word; up to 7 words are held. -/
structure Fetch where
  requester : Requester
  line : Nat
  words : List Word
  orphan : Bool
  deriving DecidableEq, Repr

/-- The port's states (R19): the fetch record exists in FETCHING and in no other. -/
inductive RomPort where
  | idle
  | console
  | fetching (fetch : Fetch)
  deriving DecidableEq, Repr

/-! ## Command Unit and Table Loader (Chapter 3) -/

/-- The command states (R32). -/
inductive CommandState where
  | idle
  | collecting
  | executing
  | responding
  deriving DecidableEq, Repr

/-- The Command Unit (R32). `frame` is the Command Buffer, header first; `response` the Response Buffer, header first;
`taken` counts the response words already read. -/
structure CommandUnit where
  state : CommandState
  frame : List Word
  expected : Nat
  response : List Word
  taken : Nat
  protocolError : Bool
  deriving DecidableEq, Repr

/-- The tables the Loader fills (section 3.7). -/
inductive TableId where
  | windows
  | actions
  | cues
  | patterns
  | steps
  | schedule
  deriving DecidableEq, Repr

/-- The Loader's states other than IDLE (R42). -/
inductive LoadPhase where
  | receiving
  | fetching
  | checking
  deriving DecidableEq, Repr

/-- The load record (R42): `source` is the ROM word address for source ROM, none for source DATA; `staged` holds the image
words received, in order. -/
structure Load where
  phase : LoadPhase
  table : TableId
  first : Nat
  count : Nat
  source : Option Nat
  staged : List Word
  deriving DecidableEq, Repr

/-! ## Action Dispatcher (Chapter 4) -/

/-- A record of the Action Table (R50), its words as the image gives them; FFFFh is none in operand B and next. -/
structure ActionEntry where
  kind : BitVec 4
  operandA : Word
  operandB : Word
  next : Word
  deriving DecidableEq, Repr

/-- The sources of a dispatch (section 4.3). -/
inductive DispatchSource where
  | trigger
  | schedule
  | command
  deriving DecidableEq, Repr

/-! ## Sound Engine (Chapter 5) -/

/-- An entry of the Cue Table (R62), its fields as the image gives them; FFh is none in `linked`, and `loopNone` says that
the cue has no loop start. -/
structure CueEntry where
  notify : Bool
  priority : BitVec 3
  volume : BitVec 4
  format : BitVec 3
  linked : BitVec 8
  start : BitVec 24
  length : BitVec 24
  loopNone : Bool
  loopStart : BitVec 24
  rate : Word
  deriving DecidableEq, Repr

/-- An accepted play: the cue's number, the copy of its entry, its effective priority and start order (R67, R68). -/
structure Play where
  cue : Nat
  entry : CueEntry
  priority : Nat
  order : Nat
  deriving DecidableEq, Repr

/-- The voice states (R67). -/
inductive VoiceState where
  | free
  | priming
  | playing
  | releasing
  deriving DecidableEq, Repr

/-- A voice's context (R67). `phase` is in units of 1/32768 of a sample period. `fill` is the length of `buffer`. `held` is
the word whose samples are being taken, which has left the buffer (R72). `current` is the sample given to the mixer.
`elapsed` counts the output samples since the voice entered its state: the m of R66, the n of R79 and the prime limit's
count (log 16). -/
structure Voice where
  state : VoiceState
  play : Play
  position : Nat
  phase : Nat
  fetchPoint : Nat
  buffer : List Word
  held : Option (Nat × Word)
  predictor : Int
  exponent : Nat
  underruns : Nat
  underrunPosted : Bool
  next : Option Play
  linked : Bool
  current : Int
  elapsed : Nat
  deriving DecidableEq, Repr

/-- The Sound Engine. `aout` is the level of AOUT, 0 at midscale (R80). -/
structure Sound where
  cues : Vector CueEntry 128
  voices : Vector Voice 6
  nextOrder : Nat
  masterVolume : Nat
  aout : Int
  deriving DecidableEq, Repr

/-! ## Rumble Drive (Chapter 6) -/

/-- A pattern header (R85). -/
structure Header where
  stepCount : BitVec 7
  firstStep : BitVec 9
  notify : Bool
  priority : BitVec 3
  repeats : BitVec 4
  deriving DecidableEq, Repr

/-- A step of the Step Store (R86). -/
structure PatternStep where
  kind : BitVec 2
  strength : BitVec 4
  duration : BitVec 8
  deriving DecidableEq, Repr

/-- The sources of a rumble request (R89). -/
inductive RumbleSource where
  | action
  | command
  | cueLink
  deriving DecidableEq, Repr

/-- A rumble request (R89). -/
structure Request where
  pattern : Nat
  priority : Nat
  source : RumbleSource
  voice : Option Nat
  notify : Bool
  arrival : Nat
  deriving DecidableEq, Repr

/-- The playing request and its place (R89): `playsLeft` is none for an endless request. -/
structure Playing where
  request : Request
  step : Nat
  ticksLeft : Nat
  playsLeft : Option Nat
  deriving DecidableEq, Repr

/-- The motor states (R94). -/
inductive MotorState where
  | stopped
  | kick
  | driving
  | coasting
  | braking
  deriving DecidableEq, Repr

/-- The motor record (R94). -/
structure Motor where
  state : MotorState
  strength : Nat
  kickLeft : Nat
  coastCount : Nat
  brakeLeft : Nat
  deriving DecidableEq, Repr

/-- The Rumble Drive. -/
structure Rumble where
  headers : Vector Header 32
  steps : Vector PatternStep 512
  playing : Option Playing
  queue : List Request
  nextArrival : Nat
  motor : Motor
  enabled : Bool
  guardStrength : Nat
  heavyThreshold : Nat
  deriving DecidableEq, Repr

/-! ## Save Controller (Chapters 7 and 8) -/

/-- The volume states (R107). -/
inductive VolumeState where
  | unformatted
  | recovering
  | ready
  deriving DecidableEq, Repr

/-- A slot's two images (R104). -/
inductive Image where
  | a
  | b
  deriving DecidableEq, Repr

/-- A slot record (R105): `valid` is state VALID; `gameDay` and `playSeconds` fill two words each; `instant` is none when absent. -/
structure SlotRecord where
  valid : Bool
  live : Image
  generation : Word
  dataLength : Word
  crc : Word
  gameDay : BitVec 32
  playSeconds : BitVec 32
  instant : Option (BitVec 32)
  deriving DecidableEq, Repr

/-- The switch phase (R108): INTENT_WRITTEN carries the image that the SAVE_STAGE view then shows. -/
inductive SwitchPhase where
  | none
  | intentWritten (view : Image)
  deriving DecidableEq, Repr

/-- What the core keeps for a slot (R108, R109). -/
structure Slot where
  record : SlotRecord
  tainted : Bool
  bad : Bool
  phase : SwitchPhase
  deriving DecidableEq, Repr

/-- An entry of the Posted Write Buffer (R112). -/
structure Posted where
  address : Nat
  data : Word
  slot : Nat
  deriving DecidableEq, Repr

/-- The kinds of flag operation (R130). -/
inductive FlagKind where
  | test
  | set
  | clear
  | toggle
  | scan
  | clearRange
  deriving DecidableEq, Repr

/-- An entry of the Flag Operation List (R130): `fromCommand` is its origin, the command or an action. -/
structure FlagOp where
  kind : FlagKind
  fromCommand : Bool
  first : Nat
  count : Nat
  nextWord : Nat
  polarity : Bool
  tally : Nat
  deriving DecidableEq, Repr

/-- The stages of start-up recovery (section 7.9), with what each holds. -/
inductive RecoveryStage where
  | volumeRecord (got : List Word)
  | intentRecord (got : List Word)
  | intentScan (slot : Nat) (new prior : SlotRecord) (index : Nat) (crc : Word)
  | resolving (slot : Nat) (forward : Bool) (writes : List (Nat × Word))
  | slotRecord (slot : Nat) (got : List Word)
  | rewriting (slot : Nat) (writes : List (Nat × Word))
  | verifying (slot : Nat) (index : Nat) (crc : Word)
  | finished
  deriving DecidableEq, Repr

/-- The sequencer: IDLE or the step in progress (section 7.5), with what the step holds. `commit` tells a commit's last three
steps from a discard's; `length` is the commit's data length in bytes; `crc` is the CRC formed so far; `writes` are the word
writes still to make. -/
inductive Sequencer where
  | idle
  | formatDraining (sizes : List Nat)
  | formatting (sizes : List Nat) (writes : List (Nat × Word))
  | seedDraining (slot : Nat)
  | copying (slot : Nat) (index : Nat) (held : Option Word)
  | commitDraining (slot : Nat) (length : Nat)
  | scanning (slot : Nat) (length : Nat) (index : Nat) (crc : Word)
  | guarding (slot : Nat) (length : Nat) (crc : Word)
  | intent (commit : Bool) (slot : Nat) (record : SlotRecord) (writes : List (Nat × Word))
  | switching (commit : Bool) (slot : Nat) (record : SlotRecord) (writes : List (Nat × Word))
  | closing (commit : Bool) (slot : Nat) (writes : List (Nat × Word))
  | verifying (slot : Nat) (index : Nat) (crc : Word)
  | recovering (stage : RecoveryStage)
  deriving DecidableEq, Repr

/-- The internal claims on the SRAM port (R110, claims 2 to 4). -/
inductive Claim where
  | drain
  | flag
  | sequencer
  deriving DecidableEq, Repr

/-- The Save Controller. `port` is the internal access in progress (log 11). -/
structure Save where
  volume : VolumeState
  slotCount : Nat
  sizes : List Nat
  slots : Vector Slot 8
  buffer : List Posted
  flags : List FlagOp
  sequencer : Sequencer
  port : Option Claim
  guard : Bool
  deriving DecidableEq, Repr

/-! ## Calendar Unit (Chapter 9) -/

/-- A calendar reading (R138). -/
structure DateTime where
  year : Nat
  month : Nat
  date : Nat
  hour : Nat
  minute : Nat
  second : Nat
  deriving DecidableEq, Repr

/-- The Calendar Unit (R138). `high` is the high-water instant; `behind` is the clock state BEHIND. -/
structure Calendar where
  now : DateTime
  valid : Bool
  high : Nat
  behind : Bool
  gameDay : Nat
  dayStart : Nat
  advanceCap : Nat
  unreported : Nat
  timerSeconds : Nat
  timerHundredths : Nat
  timerRunning : Bool
  deriving DecidableEq, Repr

/-! ## Day Schedule (Chapter 10) -/

/-- A schedule entry (R158), its fields as the image gives them: `word2` holds hour and minute or the target's high bits,
`word3` the weekday mask or the target's low bits. -/
structure ScheduleEntry where
  kind : BitVec 4
  enabled : Bool
  wake : Bool
  action : BitVec 8
  word2 : Word
  word3 : Word
  pending : Bool
  fired : Bool
  deriving DecidableEq, Repr

/-! ## Event Unit (Chapter 11) -/

/-- The 18 kinds of event (section 11.2), in the order of their numbering (section 13.2). -/
inductive EventKind where
  | cmdDone
  | cueEnd
  | cueRefused
  | underrun
  | rumbleEnd
  | rumbleCut
  | rumbleRefused
  | bankFault
  | triggerFault
  | actionFault
  | saveFault
  | recovery
  | dayRollover
  | clockBehind
  | clockCaughtUp
  | schedule
  | supply
  | user
  deriving DecidableEq, Repr

/-- An event record (R167). -/
structure Event where
  kind : EventKind
  index : BitVec 8
  detail : Word
  stamp : Word
  deriving DecidableEq, Repr

/-- The Event Unit (R168, R170); bit k of the mask is the enable of kind k. -/
structure EventUnit where
  queue : List Event
  overflow : Bool
  mask : BitVec 18
  deriving DecidableEq, Repr

/-! ## Power Monitor and backup domain (Chapter 12) -/

/-- The supply states (R173). -/
inductive Supply where
  | absent
  | rising
  | good
  | low
  | failing
  deriving DecidableEq, Repr

/-- The chip states (R173). -/
inductive ChipState where
  | run
  | enteringSleep
  | asleep
  | halted
  deriving DecidableEq, Repr

/-- The crossings that have a hold timer: the transitions of R174, the two of the coin-cell comparator (R184), and the
1.9 V crossing of R185. -/
inductive Hold where
  | supply (change : SupplyChange)
  | cellLow
  | cellGood
  | cellLost
  deriving DecidableEq, Repr

/-- The Power Monitor, and the coin-cell comparator and retention mark of the backup domain (R173, R183 to R185). `holds`
lists the hold timers that run; levels are in millivolts; `vbat` is none with no cell fitted (log 28, log 29). -/
structure Power where
  supply : Supply
  holds : List Hold
  heavyLoad : Bool
  vcc : Nat
  vbat : Option Nat
  coinLow : Bool
  retained : Bool
  deriving DecidableEq, Repr

/-! ## The whole -/

/-- The chip, the memories behind it and its pins. `chip` is none while the core is held in reset or has no supply (R173). -/
structure Ef24 where
  romCode : BitVec 2
  sramCode : BitVec 2
  rom : Memory
  sram : Memory
  readData : Word
  crstLow : Bool
  windows : Vector WindowEntry 16
  romPort : RomPort
  command : CommandUnit
  loader : Option Load
  actions : Vector ActionEntry 64
  sound : Sound
  rumble : Rumble
  save : Save
  calendar : Calendar
  schedule : Vector ScheduleEntry 16
  events : EventUnit
  power : Power
  chip : Option ChipState
  free : Nat
  deriving DecidableEq, Repr

/-- The chip and the queue of the commands that wait, first in, first out (log 1). -/
structure State extends Ef24 where
  pending : List Instr
  deriving DecidableEq, Repr

/-- Why the machine could stop: it never does, because the spec gives every command an effect. Faults the guide names are
events, statuses and flags of the state. -/
inductive Fault where
  deriving DecidableEq, Repr

/-- Why a command could be turned away by the model. -/
inductive Refusal where
  /-- Raised by an arm of `exec` whose command has no meaning yet; no arm does. Safe: the machine stops. -/
  | notModelled (mnemonic : String)
  deriving DecidableEq, Repr

/-! ## Reset values -/

/-- An UNUSED window entry with current bank 0 (R2; its other fields: log 5). -/
def WindowEntry.unused : WindowEntry :=
  { base := 0, kind := 0, spanCode := 0, target := 0, bankSelect := false, count := 0, bank := 0 }

/-- Entry 0 of the default table: ROM, base block 0, span 255, page 0, bank count 1, bank-select no (R2). -/
def WindowEntry.defaultRom : WindowEntry := { WindowEntry.unused with kind := 1, spanCode := 254 }

/-- Entry 15 of the default table: CONTROL, base block 255, span 1 (R2). -/
def WindowEntry.defaultControl : WindowEntry := { WindowEntry.unused with kind := 6, base := 255 }

/-- The default Window Table (R2). -/
def defaultWindows : Vector WindowEntry 16 :=
  ((Vector.replicate 16 WindowEntry.unused).setIfInBounds 0 WindowEntry.defaultRom).setIfInBounds 15
    WindowEntry.defaultControl

/-- The Command Unit after a core reset (R32). -/
def CommandUnit.reset : CommandUnit :=
  { state := .idle, frame := [], expected := 0, response := [], taken := 0, protocolError := false }

/-- An INVALID action (R49; its operand and next words: log 5). -/
def ActionEntry.invalid : ActionEntry := { kind := 0, operandA := 0, operandB := 0, next := 0 }

/-- An empty TONE entry (R64). -/
def CueEntry.empty : CueEntry :=
  { notify := false, priority := 0, volume := 0, format := 0, linked := 255, start := 0, length := 0, loopNone := true,
    loopStart := 0, rate := 0 }

/-- The play a voice holds after a core reset: cue 0 (R84), the rest log 5. -/
def Play.reset : Play := { cue := 0, entry := CueEntry.empty, priority := 0, order := 0 }

/-- A voice after a core reset (R67; log 5). -/
def Voice.reset : Voice :=
  { state := .free, play := Play.reset, position := 0, phase := 0, fetchPoint := 0, buffer := [], held := none,
    predictor := 0, exponent := 0, underruns := 0, underrunPosted := false, next := none, linked := false, current := 0,
    elapsed := 0 }

/-- The Sound Engine after a core reset (R64, R67, R80, R81). -/
def Sound.reset : Sound :=
  { cues := Vector.replicate 128 CueEntry.empty, voices := Vector.replicate 6 Voice.reset, nextOrder := 0,
    masterVolume := 12, aout := 0 }

/-- An empty pattern header (R85). -/
def Header.empty : Header := { stepCount := 0, firstStep := 0, notify := false, priority := 0, repeats := 0 }

/-- An empty step: DRIVE, strength 0, duration 0 (R86). -/
def PatternStep.empty : PatternStep := { kind := 0, strength := 0, duration := 0 }

/-- The motor after a core reset (R94). -/
def Motor.reset : Motor := { state := .stopped, strength := 0, kickLeft := 0, coastCount := 0, brakeLeft := 0 }

/-- The Rumble Drive after a core reset (R85, R86, R91, R94, R97). -/
def Rumble.reset : Rumble :=
  { headers := Vector.replicate 32 Header.empty, steps := Vector.replicate 512 PatternStep.empty, playing := none, queue := [],
    nextArrival := 0, motor := Motor.reset, enabled := true, guardStrength := 4, heavyThreshold := 10 }

/-- An EMPTY slot record of a given generation (R105, R120). -/
def SlotRecord.empty (generation : Word) : SlotRecord :=
  { valid := false, live := .a, generation := generation, dataLength := 0, crc := 0, gameDay := 0, playSeconds := 0,
    instant := none }

/-- A slot as a core reset leaves it (R109, R125; the record: log 5). -/
def Slot.reset : Slot := { record := SlotRecord.empty 0, tainted := false, bad := false, phase := .none }

/-- The Save Controller while a core reset lasts (R125; the copies: log 5). -/
def Save.reset : Save :=
  { volume := .recovering, slotCount := 0, sizes := [], slots := Vector.replicate 8 Slot.reset, buffer := [], flags := [],
    sequencer := .idle, port := none, guard := false }

/-- The first calendar reading, 2000-01-01 00:00:00 (R140). -/
def DateTime.epoch : DateTime := { year := 2000, month := 1, date := 1, hour := 0, minute := 0, second := 0 }

/-- The Calendar Unit after a backup reset (R140). -/
def Calendar.reset : Calendar :=
  { now := DateTime.epoch, valid := false, high := 0, behind := false, gameDay := 0, dayStart := 0, advanceCap := 255,
    unreported := 0, timerSeconds := 0, timerHundredths := 0, timerRunning := false }

/-- An UNUSED schedule entry (R158). -/
def ScheduleEntry.unused : ScheduleEntry :=
  { kind := 0, enabled := false, wake := false, action := 0, word2 := 0, word3 := 0, pending := false, fired := false }

/-- The Event Unit after a core reset (R172). -/
def EventUnit.reset : EventUnit := { queue := [], overflow := false, mask := 0 }

/-- The Power Monitor at the end of a first power-on (R178, R184, R185; the levels: log 2). -/
def Power.reset : Power :=
  { supply := .good, holds := [], heavyLoad := false, vcc := 3300, vbat := some 3000, coinLow := false, retained := true }

/-- The chip at the moment the core reset of a first power-on ends, with the backup reset done before it (R178, R185; log 2):
the chip is in RUN, and start-up recovery has the SRAM port for its first read (R110, R126). -/
def Ef24.reset : Ef24 :=
  { romCode := 0, sramCode := 0, rom := [], sram := [], readData := 0xFFFF, crstLow := false, windows := defaultWindows,
    romPort := .idle, command := CommandUnit.reset, loader := none, actions := Vector.replicate 64 ActionEntry.invalid,
    sound := Sound.reset, rumble := Rumble.reset,
    save := { Save.reset with sequencer := .recovering (.volumeRecord []), port := some .sequencer },
    calendar := Calendar.reset, schedule := Vector.replicate 16 ScheduleEntry.unused, events := EventUnit.reset,
    power := Power.reset, chip := some .run, free := 0 }

/-- The machine right after reset: the chip as above, no command waiting. -/
def State.reset : State := { Ef24.reset with pending := [] }

end Sys2Proof.Machine
end

