-- ==== Sys2Proof/Machine/Operands.lean ====
section
/-! DEFINITION. The layouts of Chapter 13: fields of words, the numbering of codes, the images of table entries, the records
of the directory area, and the CRC. -/

namespace Sys2Proof.Machine

/-! ## Words and fields -/

/-- The field of a word that `width` bits from bit `lo` up hold, as a number. -/
def Field.get (w : Word) (lo width : Nat) : Nat := w.toNat / 2 ^ lo % 2 ^ width

/-- A number placed in the field of `width` bits from bit `lo` up, the other bits 0. -/
def Field.put (value lo width : Nat) : Nat := value % 2 ^ width * 2 ^ lo

/-- A mark placed at a bit. -/
def Field.mark (b : Bool) (bit : Nat) : Nat := if b then 2 ^ bit else 0

/-- A number as a word. -/
def word (n : Nat) : Word := BitVec.ofNat 16 n

/-- The high word of a number that needs two (Chapter 13). -/
def highWord (n : Nat) : Word := word (n / 65536)

/-- The word FFFFh: none in a 16-bit field (R186), and what the console reads where nothing answers (R3). -/
def noneWord : Word := 0xFFFF

/-- A 16-bit field that may be none (R186). -/
def optionalWord (w : Word) : Option Nat := if w = noneWord then none else some w.toNat

/-! ## Tables: fixed runs of entries -/

/-- The entry at a number, or the given one beyond the table. -/
def Table.get {α : Type} {n : Nat} (t : Vector α n) (i : Nat) (beyond : α) : α := t.toList.getD i beyond

/-- The table with one entry replaced; a number beyond the table replaces none. -/
def Table.put {α : Type} {n : Nat} (t : Vector α n) (i : Nat) (x : α) : Vector α n := t.setIfInBounds i x

/-- The table with a run of entries replaced from a number up (R16, R52, R64, R88, R159). -/
def Table.putRange {α : Type} {n : Nat} (t : Vector α n) : Nat → List α → Vector α n
  | _, [] => t
  | i, x :: xs => Table.putRange (Table.put t i x) (i + 1) xs

/-- The numbers below a bound, in rising order. -/
def upTo (n : Nat) : List Nat := List.range n

/-! ## Numbering (section 13.2) -/

/-- The named commands, in the order of their opcodes. -/
inductive Command where
  | statusQuery
  | tableRead
  | loadTable
  | loadAbort
  | actionRun
  | cuePlay
  | voiceStop
  | soundStopAll
  | soundVolume
  | voiceStatus
  | rumbleStart
  | rumbleCut
  | rumbleEnable
  | rumbleLimits
  | rumbleStatus
  | saveFormat
  | slotSeed
  | slotCommit
  | slotDiscard
  | slotVerify
  | slotInfo
  | flagTest
  | flagSet
  | flagClear
  | flagToggle
  | flagScan
  | flagClearRange
  | clockSet
  | clockRead
  | dayStartSet
  | gameDayRead
  | advanceCapSet
  | timerRun
  | timerStop
  | timerClear
  | timerRead
  | eventTake
  | eventMaskSet
  | sleep
  | wake
  | supplyRead
  deriving DecidableEq, Repr

/-- The opcodes (section 13.2). -/
def Command.opcode : Command → Nat
  | .statusQuery => 0x01
  | .tableRead => 0x02
  | .loadTable => 0x03
  | .loadAbort => 0x04
  | .actionRun => 0x08
  | .cuePlay => 0x10
  | .voiceStop => 0x11
  | .soundStopAll => 0x12
  | .soundVolume => 0x13
  | .voiceStatus => 0x14
  | .rumbleStart => 0x18
  | .rumbleCut => 0x19
  | .rumbleEnable => 0x1A
  | .rumbleLimits => 0x1B
  | .rumbleStatus => 0x1C
  | .saveFormat => 0x20
  | .slotSeed => 0x21
  | .slotCommit => 0x22
  | .slotDiscard => 0x23
  | .slotVerify => 0x24
  | .slotInfo => 0x25
  | .flagTest => 0x28
  | .flagSet => 0x29
  | .flagClear => 0x2A
  | .flagToggle => 0x2B
  | .flagScan => 0x2C
  | .flagClearRange => 0x2D
  | .clockSet => 0x30
  | .clockRead => 0x31
  | .dayStartSet => 0x32
  | .gameDayRead => 0x33
  | .advanceCapSet => 0x34
  | .timerRun => 0x35
  | .timerStop => 0x36
  | .timerClear => 0x37
  | .timerRead => 0x38
  | .eventTake => 0x40
  | .eventMaskSet => 0x41
  | .sleep => 0x48
  | .wake => 0x49
  | .supplyRead => 0x4A

/-- Whether an opcode names a command: the runs of section 13.2. -/
def opcodeNamed (opcode : Nat) : Bool :=
  decide (0x01 ≤ opcode ∧ opcode ≤ 0x04) || decide (opcode = 0x08) || decide (0x10 ≤ opcode ∧ opcode ≤ 0x14) ||
    decide (0x18 ≤ opcode ∧ opcode ≤ 0x1C) || decide (0x20 ≤ opcode ∧ opcode ≤ 0x25) ||
    decide (0x28 ≤ opcode ∧ opcode ≤ 0x2D) || decide (0x30 ≤ opcode ∧ opcode ≤ 0x38) ||
    decide (0x40 ≤ opcode ∧ opcode ≤ 0x41) || decide (0x48 ≤ opcode ∧ opcode ≤ 0x4A)

/-- The argument counts a command accepts (R34), as the owners' rules give them; none accepts more than 31. -/
def Command.accepts : Command → Nat → Bool
  | .statusQuery, n => n == 0
  | .tableRead, n => n == 3
  | .loadTable, n => n == 5
  | .loadAbort, n => n == 0
  | .actionRun, n => n == 1
  | .cuePlay, n => n == 1 || n == 2
  | .voiceStop, n => n == 1
  | .soundStopAll, n => n == 0
  | .soundVolume, n => n == 1
  | .voiceStatus, n => n == 0
  | .rumbleStart, n => n == 1 || n == 2
  | .rumbleCut, n => n == 0
  | .rumbleEnable, n => n == 1
  | .rumbleLimits, n => n == 2
  | .rumbleStatus, n => n == 0
  | .saveFormat, n => decide (2 ≤ n ∧ n ≤ 9)
  | .slotSeed, n => n == 1
  | .slotCommit, n => n == 2
  | .slotDiscard, n => n == 1
  | .slotVerify, n => n == 1
  | .slotInfo, n => n == 1
  | .flagTest, n => n == 1
  | .flagSet, n => n == 1
  | .flagClear, n => n == 1
  | .flagToggle, n => n == 1
  | .flagScan, n => n == 3
  | .flagClearRange, n => n == 2
  | .clockSet, n => n == 6
  | .clockRead, n => n == 0
  | .dayStartSet, n => n == 1
  | .gameDayRead, n => n == 0
  | .advanceCapSet, n => n == 1
  | .timerRun, n => n == 0
  | .timerStop, n => n == 0
  | .timerClear, n => n == 0
  | .timerRead, n => n == 0
  | .eventTake, n => n == 1
  | .eventMaskSet, n => n == 2
  | .sleep, n => n == 0
  | .wake, n => n == 0
  | .supplyRead, n => n == 0

/-- The commands taken in ASLEEP (R38). -/
def Command.takenAsleep : Command → Bool
  | .wake | .statusQuery | .eventTake | .eventMaskSet | .clockRead | .gameDayRead | .supplyRead | .slotInfo => true
  | .tableRead | .loadTable | .loadAbort | .actionRun | .cuePlay | .voiceStop | .soundStopAll | .soundVolume
  | .voiceStatus | .rumbleStart | .rumbleCut | .rumbleEnable | .rumbleLimits | .rumbleStatus | .saveFormat | .slotSeed
  | .slotCommit | .slotDiscard | .slotVerify | .flagTest | .flagSet | .flagClear | .flagToggle | .flagScan
  | .flagClearRange | .clockSet | .dayStartSet | .advanceCapSet | .timerRun | .timerStop | .timerClear | .timerRead
  | .sleep => false

/-- The status codes (section 3.4). -/
inductive Status where
  | ok
  | accepted
  | badOpcode
  | badLength
  | badArg
  | outOfRange
  | busy
  | notReady
  | asleep
  | noVoice
  | tainted
  | disabled
  | windowsOpen
  | refusedEntry
  | crcBad
  | aborted
  | disturbed
  deriving DecidableEq, Repr

/-- The numbers of the status codes (section 13.2). -/
def Status.code : Status → Nat
  | .ok => 0x00
  | .accepted => 0x01
  | .badOpcode => 0x10
  | .badLength => 0x11
  | .badArg => 0x12
  | .outOfRange => 0x13
  | .busy => 0x14
  | .notReady => 0x15
  | .asleep => 0x16
  | .noVoice => 0x20
  | .tainted => 0x21
  | .disabled => 0x22
  | .windowsOpen => 0x23
  | .refusedEntry => 0x30
  | .crcBad => 0x31
  | .aborted => 0x32
  | .disturbed => 0x33

/-- The table ids (section 13.2). -/
def tableOfId : Nat → Option TableId
  | 0 => some .windows
  | 1 => some .actions
  | 2 => some .cues
  | 3 => some .patterns
  | 4 => some .steps
  | 5 => some .schedule
  | _ => none

/-- The entries of each table (section 3.7). -/
def TableId.entries : TableId → Nat
  | .windows => 16
  | .actions => 64
  | .cues => 128
  | .patterns => 32
  | .steps => 512
  | .schedule => 16

/-- The words of an entry image of each table (section 3.7). -/
def TableId.entrySize : TableId → Nat
  | .windows => 4
  | .actions => 4
  | .cues => 8
  | .patterns => 2
  | .steps => 1
  | .schedule => 4

/-- The numbers of the event kinds (section 13.2). -/
def EventKind.code : EventKind → Nat
  | .cmdDone => 0
  | .cueEnd => 1
  | .cueRefused => 2
  | .underrun => 3
  | .rumbleEnd => 4
  | .rumbleCut => 5
  | .rumbleRefused => 6
  | .bankFault => 7
  | .triggerFault => 8
  | .actionFault => 9
  | .saveFault => 10
  | .recovery => 11
  | .dayRollover => 12
  | .clockBehind => 13
  | .clockCaughtUp => 14
  | .schedule => 15
  | .supply => 16
  | .user => 17

/-- An event record's four words (section 13.3). -/
def Event.words (e : Event) : List Word := [word e.kind.code, word e.index.toNat, e.detail, e.stamp]

/-! ## Table entry images (section 13.4) -/

/-- The next word of an image, 0000h past its end. -/
def imageWord (ws : List Word) (i : Nat) : Word := ws.getD i 0

/-- A window entry read from its image; the bank is not part of what is loaded (R16, R186). -/
def WindowEntry.ofImage (ws : List Word) : WindowEntry :=
  { base := BitVec.ofNat 8 (Field.get (imageWord ws 0) 8 8)
    kind := BitVec.ofNat 4 (Field.get (imageWord ws 0) 0 4)
    spanCode := BitVec.ofNat 8 (Field.get (imageWord ws 1) 0 8)
    target := BitVec.ofNat 13 (Field.get (imageWord ws 2) 0 13)
    bankSelect := (imageWord ws 3).getLsbD 15
    count := BitVec.ofNat 8 (Field.get (imageWord ws 3) 0 8)
    bank := 0 }

/-- The window kinds (section 13.4). -/
inductive WindowKind where
  | unused
  | rom
  | saveStage
  | saveLive
  | flags
  | trigger
  | control
  deriving DecidableEq, Repr

/-- The kind a window entry's code names, if it names one. -/
def WindowEntry.kindNamed (e : WindowEntry) : Option WindowKind :=
  match e.kind.toNat with
  | 0 => some .unused
  | 1 => some .rom
  | 2 => some .saveStage
  | 3 => some .saveLive
  | 4 => some .flags
  | 5 => some .trigger
  | 6 => some .control
  | _ => none

/-- An entry whose kind is anything other than UNUSED is valid (section 1.1). -/
def WindowEntry.isValid (e : WindowEntry) : Bool := e.kind != 0

/-- The number of blocks a window covers, 1 to 256. -/
def WindowEntry.span (e : WindowEntry) : Nat := e.spanCode.toNat + 1

/-- The first ROM page of a ROM window. -/
def WindowEntry.romPage (e : WindowEntry) : Nat := e.target.toNat

/-- The bank count of a ROM window, 1 to 256. -/
def WindowEntry.bankCount (e : WindowEntry) : Nat := e.count.toNat + 1

/-- The slot of a save window: bits 2:0 of word 2. -/
def WindowEntry.slot (e : WindowEntry) : Nat := e.target.toNat % 8

/-- The action base of a trigger window: bits 5:0 of word 2. -/
def WindowEntry.actionBase (e : WindowEntry) : Nat := e.target.toNat % 64

/-- The action count of a trigger window: bits 6:0 of word 3. -/
def WindowEntry.actionCount (e : WindowEntry) : Nat := e.count.toNat % 128

/-- The image TABLE READ returns, with the current bank of a ROM entry (R18, R187; log 30). -/
def WindowEntry.image (e : WindowEntry) : List Word :=
  [ word (Field.put e.base.toNat 8 8 + Field.put e.kind.toNat 0 4),
    word ((if e.kind = 1 then Field.put e.bank 8 8 else 0) + Field.put e.spanCode.toNat 0 8),
    word (Field.put e.target.toNat 0 13),
    word (Field.mark e.bankSelect 15 + Field.put e.count.toNat 0 8) ]

/-- An action read from its image. -/
def ActionEntry.ofImage (ws : List Word) : ActionEntry :=
  { kind := BitVec.ofNat 4 (Field.get (imageWord ws 0) 0 4)
    operandA := imageWord ws 1
    operandB := imageWord ws 2
    next := imageWord ws 3 }

/-- The action kinds (section 13.4). -/
inductive ActionKind where
  | invalid
  | playCue
  | stopCue
  | silence
  | rumble
  | rumbleCut
  | flagSet
  | flagClear
  | flagClearRange
  | post
  deriving DecidableEq, Repr

/-- The kind an action's code names, if it names one. -/
def ActionEntry.kindNamed (e : ActionEntry) : Option ActionKind :=
  match e.kind.toNat with
  | 0 => some .invalid
  | 1 => some .playCue
  | 2 => some .stopCue
  | 3 => some .silence
  | 4 => some .rumble
  | 5 => some .rumbleCut
  | 6 => some .flagSet
  | 7 => some .flagClear
  | 8 => some .flagClearRange
  | 9 => some .post
  | _ => none

/-- The image of an action. -/
def ActionEntry.image (e : ActionEntry) : List Word := [word e.kind.toNat, e.operandA, e.operandB, e.next]

/-- A cue read from its image. -/
def CueEntry.ofImage (ws : List Word) : CueEntry :=
  { notify := (imageWord ws 0).getLsbD 11
    priority := BitVec.ofNat 3 (Field.get (imageWord ws 0) 8 3)
    volume := BitVec.ofNat 4 (Field.get (imageWord ws 0) 4 4)
    format := BitVec.ofNat 3 (Field.get (imageWord ws 0) 0 3)
    linked := BitVec.ofNat 8 (Field.get (imageWord ws 1) 0 8)
    start := BitVec.ofNat 24 (Field.get (imageWord ws 1) 8 8 * 65536 + (imageWord ws 2).toNat)
    length := BitVec.ofNat 24 (Field.get (imageWord ws 3) 0 8 * 65536 + (imageWord ws 4).toNat)
    loopNone := (imageWord ws 5).getLsbD 15
    loopStart := BitVec.ofNat 24 (Field.get (imageWord ws 5) 0 8 * 65536 + (imageWord ws 6).toNat)
    rate := imageWord ws 7 }

/-- The formats (section 13.4). -/
inductive CueFormat where
  | tone
  | pcm8
  | pcm16le
  | pcm16be
  | adpcm4
  deriving DecidableEq, Repr

/-- The format a cue's code names, if it names one. -/
def CueEntry.formatNamed (e : CueEntry) : Option CueFormat :=
  match e.format.toNat with
  | 0 => some .tone
  | 1 => some .pcm8
  | 2 => some .pcm16le
  | 3 => some .pcm16be
  | 4 => some .adpcm4
  | _ => none

/-- The image of a cue. -/
def CueEntry.image (e : CueEntry) : List Word :=
  [ word (Field.mark e.notify 11 + Field.put e.priority.toNat 8 3 + Field.put e.volume.toNat 4 4 +
      Field.put e.format.toNat 0 3),
    word (Field.put (e.start.toNat / 65536) 8 8 + Field.put e.linked.toNat 0 8),
    word e.start.toNat,
    highWord e.length.toNat,
    word e.length.toNat,
    word (Field.mark e.loopNone 15 + Field.put (e.loopStart.toNat / 65536) 0 8),
    word e.loopStart.toNat,
    e.rate ]

/-- A pattern header read from its image. -/
def Header.ofImage (ws : List Word) : Header :=
  { stepCount := BitVec.ofNat 7 (Field.get (imageWord ws 0) 9 7)
    firstStep := BitVec.ofNat 9 (Field.get (imageWord ws 0) 0 9)
    notify := (imageWord ws 1).getLsbD 7
    priority := BitVec.ofNat 3 (Field.get (imageWord ws 1) 4 3)
    repeats := BitVec.ofNat 4 (Field.get (imageWord ws 1) 0 4) }

/-- The image of a pattern header. -/
def Header.image (h : Header) : List Word :=
  [ word (Field.put h.stepCount.toNat 9 7 + Field.put h.firstStep.toNat 0 9),
    word (Field.mark h.notify 7 + Field.put h.priority.toNat 4 3 + Field.put h.repeats.toNat 0 4) ]

/-- A step read from its image. -/
def PatternStep.ofImage (ws : List Word) : PatternStep :=
  { kind := BitVec.ofNat 2 (Field.get (imageWord ws 0) 14 2)
    strength := BitVec.ofNat 4 (Field.get (imageWord ws 0) 8 4)
    duration := BitVec.ofNat 8 (Field.get (imageWord ws 0) 0 8) }

/-- The step kinds (section 13.4). -/
inductive StepKind where
  | drive
  | coast
  | brake
  deriving DecidableEq, Repr

/-- The kind a step's code names, if it names one. -/
def PatternStep.kindNamed (s : PatternStep) : Option StepKind :=
  match s.kind.toNat with
  | 0 => some .drive
  | 1 => some .coast
  | 2 => some .brake
  | _ => none

/-- The image of a step; bits 13:12 are not used. -/
def PatternStep.image (s : PatternStep) : List Word :=
  [word (Field.put s.kind.toNat 14 2 + Field.put s.strength.toNat 8 4 + Field.put s.duration.toNat 0 8)]

/-- A schedule entry read from its image, its marks clear (R159). -/
def ScheduleEntry.ofImage (ws : List Word) : ScheduleEntry :=
  { kind := BitVec.ofNat 4 (Field.get (imageWord ws 0) 0 4)
    enabled := (imageWord ws 0).getLsbD 4
    wake := (imageWord ws 0).getLsbD 5
    action := BitVec.ofNat 8 (Field.get (imageWord ws 1) 0 8)
    word2 := imageWord ws 2
    word3 := imageWord ws 3
    pending := false
    fired := false }

/-- The schedule entry kinds (section 13.4). -/
inductive ScheduleKind where
  | unused
  | atTime
  | onRollover
  | onGameDay
  deriving DecidableEq, Repr

/-- The kind a schedule entry's code names, if it names one. -/
def ScheduleEntry.kindNamed (e : ScheduleEntry) : Option ScheduleKind :=
  match e.kind.toNat with
  | 0 => some .unused
  | 1 => some .atTime
  | 2 => some .onRollover
  | 3 => some .onGameDay
  | _ => none

/-- The hour of an AT_TIME entry. -/
def ScheduleEntry.hour (e : ScheduleEntry) : Nat := Field.get e.word2 8 8

/-- The minute of an AT_TIME entry. -/
def ScheduleEntry.minute (e : ScheduleEntry) : Nat := Field.get e.word2 0 8

/-- Whether a weekday, 0 Sunday to 6 Saturday, is marked in an AT_TIME entry's mask. -/
def ScheduleEntry.onWeekday (e : ScheduleEntry) (weekday : Nat) : Bool := decide (weekday < 7) && e.word3.getLsbD weekday

/-- The target of an ON_GAME_DAY entry. -/
def ScheduleEntry.target (e : ScheduleEntry) : Nat := Field.get e.word2 0 8 * 65536 + e.word3.toNat

/-- The image TABLE READ returns, with the marks; words 2 and 3 whole, as loaded, whatever the kind (R187; log 30). -/
def ScheduleEntry.image (e : ScheduleEntry) : List Word :=
  [ word (Field.mark e.fired 15 + Field.mark e.pending 14 + Field.mark e.wake 5 + Field.mark e.enabled 4 +
      Field.put e.kind.toNat 0 4),
    word (Field.put e.action.toNat 0 8),
    e.word2,
    e.word3 ]

/-! ## The CRC (R106) -/

/-- One bit into the CRC: polynomial x¹⁶ + x¹² + x⁵ + 1, high bit first. -/
def crcBit (crc : Word) (b : Bool) : Word := if crc.msb == b then crc <<< 1 else (crc <<< 1) ^^^ 0x1021

/-- One word into the CRC, bit 15 first. -/
def crcWord (crc w : Word) : Word := [15, 14, 13, 12, 11, 10, 9, 8, 7, 6, 5, 4, 3, 2, 1, 0].foldl (fun c i => crcBit c (w.getLsbD i)) crc

/-- The starting value of every CRC. -/
def crcStart : Word := 0xFFFF

/-- The CRC of words in increasing address order. -/
def crcOf (ws : List Word) : Word := ws.foldl crcWord crcStart

/-! ## The directory area (section 13.6) and the volume's layout (R104) -/

/-- The format mark of the volume record and the intent mark. -/
def recordMark : Word := 0x5EF2

/-- The word of the intent mark. -/
def intentBase : Nat := 144

/-- The first word of slot record k. -/
def slotRecordBase (k : Nat) : Nat := 16 + 16 * k

/-- The SRAM words of the volume record's fields, then of its check word. -/
def volumeRecordWords : List Nat := [0, 1, 2, 3, 4, 5, 6, 7, 8, 9, 10, 15]

/-- The SRAM words of slot record k's fields, then of its check word. -/
def slotRecordWords (k : Nat) : List Nat :=
  (upTo 10).map (slotRecordBase k + ·) ++ [slotRecordBase k + 15]

/-- The SRAM words of the intent record's fields, then of its check word. -/
def intentRecordWords : List Nat := (upTo 22).map (intentBase + ·) ++ [175]

/-- The other image of a slot. -/
def Image.other : Image → Image
  | .a => .b
  | .b => .a

/-- Two words, high first, of a 32-bit item. -/
def twoWords (x : BitVec 32) : List Word := [highWord x.toNat, word x.toNat]

/-- A 32-bit item from its two words, high first. -/
def ofTwoWords (hi lo : Word) : BitVec 32 := BitVec.ofNat 32 (hi.toNat * 65536 + lo.toNat)

/-- A calendar instant or its absence as two words: FFFFh FFFFh when absent. -/
def instantWords : Option (BitVec 32) → List Word
  | some x => twoWords x
  | none => [noneWord, noneWord]

/-- State in bit 0 and live image in bit 1, as slot records and SLOT INFO hold them. -/
def SlotRecord.stateBits (r : SlotRecord) : Nat := Field.mark r.valid 0 + Field.mark (r.live == .b) 1

/-- The ten field words of a slot record. -/
def SlotRecord.words (r : SlotRecord) : List Word :=
  [word r.stateBits, r.generation, r.dataLength, r.crc] ++ twoWords r.gameDay ++ twoWords r.playSeconds ++
    instantWords r.instant

/-- A slot record read from its ten field words. -/
def SlotRecord.ofWords (ws : List Word) : SlotRecord :=
  { valid := (imageWord ws 0).getLsbD 0
    live := if (imageWord ws 0).getLsbD 1 then .b else .a
    generation := imageWord ws 1
    dataLength := imageWord ws 2
    crc := imageWord ws 3
    gameDay := ofTwoWords (imageWord ws 4) (imageWord ws 5)
    playSeconds := ofTwoWords (imageWord ws 6) (imageWord ws 7)
    instant := if imageWord ws 8 = noneWord ∧ imageWord ws 9 = noneWord then none
      else some (ofTwoWords (imageWord ws 8) (imageWord ws 9)) }

/-- The words a slot's data length covers. -/
def SlotRecord.dataWords (r : SlotRecord) : Nat := r.dataLength.toNat / 2

/-- The word writes of a record without a mark: its fields, then its check word (R106; the order of the fields: log 25). -/
def recordWrites (addresses : List Nat) (fields : List Word) : List (Nat × Word) :=
  addresses.zip (fields ++ [crcOf fields])

/-- The word writes of a record whose first word is its mark: the other fields, the mark, the check word. The place of the mark is
the model's choice (log 46): R118 lists the mark first, but a mark written first would make the cleared record that SRAM still
holds valid again, and R106, R123 and R126 take a record cut off before its check word to fail its check. -/
def markedRecordWrites (addresses : List Nat) (mark : Word) (fields : List Word) : List (Nat × Word) :=
  addresses.tail.zip fields ++ [(addresses.headD 0, mark), (addresses.getLastD 0, crcOf (mark :: fields))]

/-- The word writes of slot record k, check word last. -/
def slotRecordWrites (k : Nat) (r : SlotRecord) : List (Nat × Word) := recordWrites (slotRecordWords k) r.words

/-- The field words of a volume record after its mark: slot count, capacity code, eight image sizes. -/
def volumeFields (sizes : List Nat) (capacityCode : Nat) : List Word :=
  [word sizes.length, word capacityCode] ++ (upTo 8).map (fun k => word (sizes.getD k 0))

/-- The word writes of a volume record, check word last (R106); the format mark just before it: the model's choice (log 46). -/
def volumeRecordWrites (sizes : List Nat) (capacityCode : Nat) : List (Nat × Word) :=
  markedRecordWrites volumeRecordWords recordMark (volumeFields sizes capacityCode)

/-- The field words of an intent record after its mark: slot, new record, prior record (R105). -/
def intentFields (k : Nat) (new prior : SlotRecord) : List Word := [word k] ++ new.words ++ prior.words

/-- The word writes of the intent record: slot, new record, prior record, check word last (R118); the intent mark just before the
check word: the model's choice, for R118 lists it first (log 46). -/
def intentRecordWrites (k : Nat) (new prior : SlotRecord) : List (Nat × Word) :=
  markedRecordWrites intentRecordWords recordMark (intentFields k new prior)

/-- The single write that clears the intent record (R105). -/
def intentClear : List (Nat × Word) := [(intentBase, 0)]

/-- The first word of the flag page. -/
def flagPageBase : Nat := 256

/-- The word writes of FORMATTING, its groups in the order of R114; the slot records, and the flag words, in ascending order: the
model's choice (log 45); the new volume record with its mark late: the model's choice too (log 46). -/
def formatWrites (sizes : List Nat) (capacityCode : Nat) : List (Nat × Word) :=
  [(0, 0)] ++ intentClear ++ (upTo 8).flatMap (fun k => slotRecordWrites k (SlotRecord.empty 0)) ++
    (upTo 256).map (fun w => (flagPageBase + w, 0)) ++ volumeRecordWrites sizes capacityCode

/-- The words of one image of a slot (R104). -/
def imageWords (sizes : List Nat) (k : Nat) : Nat := 512 * sizes.getD k 0

/-- The first SRAM word of an image of slot k (R104). -/
def imageBase (sizes : List Nat) (k : Nat) : Image → Nat
  | .a => 512 + 1024 * (sizes.take k).sum
  | .b => 512 + 1024 * (sizes.take k).sum + imageWords sizes k

/-- Whether a slot count and image sizes are within their ranges and fit a capacity in KiB (R104, R105). -/
def volumeFits (sizes : List Nat) (capacityKiB : Nat) : Bool :=
  decide (1 ≤ sizes.length ∧ sizes.length ≤ 8) && sizes.all (fun z => decide (1 ≤ z ∧ z ≤ 63)) &&
    decide (1 + 2 * sizes.sum ≤ capacityKiB)

/-- Whether a record's words, the last of them its check word, pass their check (R106). -/
def checkPasses (ws : List Word) (fields : Nat) : Bool := crcOf (ws.take fields) == imageWord ws fields

/-- The image sizes a volume record's words give. -/
def volumeSizes (ws : List Word) : List Nat :=
  (upTo (imageWord ws 1).toNat).map (fun k => (imageWord ws (3 + k)).toNat)

/-- Whether a volume record's words are valid for the strapped SRAM (R105; log 23). -/
def volumeValid (ws : List Word) (sramCode : BitVec 2) : Bool :=
  imageWord ws 0 == recordMark && checkPasses ws 11 && decide ((imageWord ws 1).toNat ≤ 8) &&
    volumeFits (volumeSizes ws) (Config.sramKiB sramCode) && imageWord ws 2 == word (Config.sramCodeTaken sramCode)

/-- Whether an intent record's words are valid (R105). -/
def intentValid (ws : List Word) : Bool := imageWord ws 0 == recordMark && checkPasses ws 22

end Sys2Proof.Machine
end

