-- ==== Sys2Proof/Machine/Flags.lean ====
section
/-! DEFINITION. The signals the chip computes from its state: whether the core runs, the save gate, the Drive Ceiling, Heavy
Load, CIRQ, the motor outputs, and the status word (log 36). -/

namespace Sys2Proof.Machine

/-- The core is running in RUN, ENTERING_SLEEP and ASLEEP (R142); the decoder serves windows in the same states (R4). -/
def Ef24.coreRunning (u : Ef24) : Bool :=
  match u.chip with
  | some .run => true
  | some .enteringSleep => true
  | some .asleep => true
  | some .halted => false
  | none => false

/-- The pair of supply states in which VCC feeds the domain and the save gate is open (R176, R184). -/
def Supply.powers : Supply → Bool
  | .good => true
  | .low => true
  | .absent => false
  | .rising => false
  | .failing => false

/-- The save gate is open while the supply state is GOOD or LOW (R176). -/
def Ef24.gateOpen (u : Ef24) : Bool := u.power.supply.powers

/-- The supply ceiling (R97). -/
def Supply.ceiling : Supply → Nat
  | .good => 15
  | .low => 6
  | .absent => 0
  | .rising => 0
  | .failing => 0

/-- The Drive Ceiling (R97). -/
def Ef24.ceiling (u : Ef24) : Nat :=
  if u.rumble.enabled then
    if u.save.guard then min u.power.supply.ceiling u.rumble.guardStrength else u.power.supply.ceiling
  else 0

/-- Heavy Load is asserted while the drive strength is at or above the Heavy Threshold (R98). -/
def Rumble.heavyLoad (r : Rumble) : Bool := decide (r.heavyThreshold ≤ r.motor.strength)

/-- Whether a kind is enabled in the mask (R170). -/
def EventUnit.enables (e : EventUnit) (k : EventKind) : Bool := e.mask.getLsbD k.code

/-- CIRQ is asserted exactly when an event of an enabled kind is queued (R171); it is not driven with the supply absent (R172). -/
def Ef24.cirq (u : Ef24) : Bool :=
  u.power.supply != .absent && u.events.queue.any (fun e => u.events.enables e.kind)

/-- The duty of MA, in fifteenths (R96). -/
def Ef24.dutyMA (u : Ef24) : Nat :=
  match u.rumble.motor.state with
  | .kick => u.rumble.motor.strength
  | .driving => u.rumble.motor.strength
  | .stopped => 0
  | .coasting => 0
  | .braking => 0

/-- The duty of MB, in fifteenths (R96). -/
def Ef24.dutyMB (u : Ef24) : Nat :=
  match u.rumble.motor.state with
  | .braking => u.rumble.motor.strength
  | .stopped => 0
  | .coasting => 0
  | .kick => 0
  | .driving => 0

/-- The codes of the command state in the status word (section 13.1). -/
def CommandState.code : CommandState → Nat
  | .idle => 0
  | .collecting => 1
  | .executing => 2
  | .responding => 3

/-- The codes of the chip state in the status word (section 13.1); the word is returned only while the core runs (R4). -/
def chipCode : Option ChipState → Nat
  | some .run => 0
  | some .enteringSleep => 1
  | some .asleep => 2
  | some .halted => 0
  | none => 0

/-- The codes of the volume state (section 13.1). -/
def VolumeState.code : VolumeState → Nat
  | .unformatted => 0
  | .recovering => 1
  | .ready => 2

/-- The codes of the supply state in SUPPLY READ and in the SUPPLY event (sections 13.3, 13.5). -/
def Supply.code : Supply → Nat
  | .absent => 0
  | .rising => 1
  | .good => 2
  | .low => 3
  | .failing => 4

/-- The status word (R37, section 13.1). -/
def Ef24.statusWord (u : Ef24) : Word :=
  word (Field.mark u.power.coinLow 15 + Field.mark u.loader.isSome 14 + Field.put u.save.volume.code 12 2 +
    Field.mark (u.power.supply == .low) 11 + Field.put (chipCode u.chip) 9 2 + Field.mark u.command.protocolError 8 +
    Field.mark u.events.overflow 7 + Field.put u.events.queue.length 2 5 + Field.put u.command.state.code 0 2)

end Sys2Proof.Machine
end

