-- ==== Sys2Proof/Machine/Ops.lean ====
section
/-! DEFINITION. The named operations every block uses: memory reads and writes, posting an event, building a response. -/

namespace Sys2Proof.Machine

/-! ## Memories -/

/-- What a word that nothing has written reads as (log 3, log 4). -/
def Memory.blank : Word := 0

/-- The canonical form: addresses strictly rising, no blank word listed. -/
abbrev Memory.wf (m : Memory) : Prop := m.Pairwise (fun x y => x.1 < y.1) ∧ ∀ c ∈ m, c.2 ≠ Memory.blank

/-- The word at an address. -/
def Memory.read : Memory → Nat → Word
  | [], _ => Memory.blank
  | c :: m, a => if c.1 = a then c.2 else Memory.read m a

/-- A cell put before a memory, unless its word is blank. -/
def Memory.cell (a : Nat) (w : Word) (m : Memory) : Memory := if w = Memory.blank then m else (a, w) :: m

/-- The memory with one word written, in canonical form. -/
def Memory.write : Memory → Nat → Word → Memory
  | [], a, w => Memory.cell a w []
  | c :: m, a, w =>
    if a < c.1 then Memory.cell a w (c :: m)
    else if a = c.1 then Memory.cell a w m
    else c :: Memory.write m a w

/-- The memory with several words written, in order. -/
def Memory.writeAll (m : Memory) : List (Nat × Word) → Memory
  | [] => m
  | (a, w) :: rest => Memory.writeAll (m.write a w) rest

/-! ## Events -/

/-- The stamp of an event: the minute of the day, or FFFFh while Calendar Valid is false (R155, R167). -/
def Calendar.stamp (c : Calendar) : Word := if c.valid then word (c.now.hour * 60 + c.now.minute) else noneWord

/-- The most records the Event Queue holds (R168). -/
def eventPlaces : Nat := 16

/-- A record joins the back of the queue, or is dropped with the overflow flag set (R168). -/
def EventUnit.take (q : EventUnit) (e : Event) : EventUnit :=
  if q.queue.length < eventPlaces then { q with queue := q.queue ++ [e] } else { q with overflow := true }

/-- A post reaches the Event Unit, which stamps it (R167, R168). -/
def Ef24.post (u : Ef24) (kind : EventKind) (index detail : Nat) : Ef24 :=
  { u with events := u.events.take { kind := kind, index := BitVec.ofNat 8 index, detail := word detail, stamp := u.calendar.stamp } }

/-- A post that a block asks for: kind, index, detail. -/
abbrev Posting := EventKind × Nat × Nat

/-- The posts one block makes, in the order it makes them (R168). -/
def Ef24.postAll (u : Ef24) (ps : List Posting) : Ef24 := ps.foldl (fun v p => v.post p.1 p.2.1 p.2.2) u

/-- The detail of CMD_DONE: status code and entry or slot (section 13.3). -/
def doneDetail (status : Status) (item : Nat) : Nat := Field.put status.code 10 6 + Field.put item 0 10

/-- CMD_DONE of a long operation (R39). -/
def Ef24.postDone (u : Ef24) (c : Command) (status : Status) (item : Nat) : Ef24 :=
  u.post .cmdDone c.opcode (doneDetail status item)

/-! ## Responses -/

/-- The response is complete: header and result words stand in the Response Buffer, none read (R34). -/
def Ef24.respond (u : Ef24) (status : Status) (results : List Word) : Ef24 :=
  { u with command := { u.command with
      state := .responding
      frame := []
      expected := 0
      response := word (Field.put status.code 8 8 + Field.put results.length 0 8) :: results
      taken := 0 } }

/-- The opcode of the frame in the Command Buffer. -/
def CommandUnit.opcode (c : CommandUnit) : Nat := Field.get (imageWord c.frame 0) 8 8

/-- The argument count that the frame's header gives. -/
def CommandUnit.argCount (c : CommandUnit) : Nat := Field.get (imageWord c.frame 0) 0 8

/-- Argument i of the frame, counted from 0. -/
def CommandUnit.arg (c : CommandUnit) (i : Nat) : Nat := (imageWord c.frame (i + 1)).toNat

end Sys2Proof.Machine
end

