-- ==== Sys2Proof/Machine/Rumble.lean ====
section
/-! DEFINITION. The Rumble Drive (Chapter 6): patterns, requests and their queue, the motor record. The operations take the
Drive Ceiling as an argument; the drive strength is brought up to date by `Rumble.follow` at the end of each step (log 11). -/

namespace Sys2Proof.Machine

/-! ## Patterns (R85, R86) -/

/-- A pattern's header. -/
def Rumble.header (r : Rumble) (pattern : Nat) : Header := Table.get r.headers pattern Header.empty

/-- Step i of a pattern. -/
def Rumble.patternStep (r : Rumble) (pattern i : Nat) : PatternStep :=
  Table.get r.steps ((r.header pattern).firstStep.toNat + i) PatternStep.empty

/-- Playable: step count 1 to 64 and no step of the run empty (R86). -/
def Rumble.playable (r : Rumble) (pattern : Nat) : Bool :=
  decide (1 ≤ (r.header pattern).stepCount.toNat ∧ (r.header pattern).stepCount.toNat ≤ 64) &&
    (upTo (r.header pattern).stepCount.toNat).all (fun i => (r.patternStep pattern i).duration != 0)

/-- The step in hand (R89). -/
def Rumble.stepInHand (r : Rumble) : Option PatternStep :=
  r.playing.map (fun p => r.patternStep p.request.pattern p.step)

/-! ## The motor (R94 to R96) -/

/-- The strength a step asks of the motor under a ceiling: 0 for COAST, BRAKE and a DRIVE limited to 0. -/
def PatternStep.effective (s : PatternStep) (ceiling : Nat) : Nat :=
  match s.kindNamed with
  | some .drive => min s.strength.toNat ceiling
  | some .coast => 0
  | some .brake => 0
  | none => 0

/-- The motor stopped, every count 0. -/
def Motor.stop (m : Motor) : Motor := { m with state := .stopped, kickLeft := 0, coastCount := 0, brakeLeft := 0 }

/-- The motor entering KICK for 3 ticks (R95). -/
def Motor.startKick (m : Motor) : Motor := { m with state := .kick, kickLeft := 3, coastCount := 0, brakeLeft := 0 }

/-- The motor entering DRIVING. -/
def Motor.drive (m : Motor) : Motor := { m with state := .driving, kickLeft := 0, coastCount := 0, brakeLeft := 0 }

/-- The motor entering COASTING with count 0. -/
def Motor.coast (m : Motor) : Motor := { m with state := .coasting, kickLeft := 0, coastCount := 0, brakeLeft := 0 }

/-- The motor entering BRAKING for a BRAKE step. -/
def Motor.brake (m : Motor) : Motor := { m with state := .braking, kickLeft := 0, coastCount := 0, brakeLeft := 0 }

/-- The end brake: 4 ticks of BRAKING unless the motor is STOPPED (R92). -/
def Motor.endBrake (m : Motor) : Motor :=
  if m.state = .stopped then m else { m with state := .braking, kickLeft := 0, coastCount := 0, brakeLeft := 4 }

/-- A step beginning: the columns of R94 with a new step. A motor in BRAKING, for a BRAKE step or for the end brake, counts
as STOPPED (R92, R94). -/
def Motor.begin (m : Motor) (s : PatternStep) (ceiling : Nat) : Motor :=
  if s.kindNamed = some .brake then m.brake
  else if 0 < s.effective ceiling then
    match m.state with
    | .stopped => m.startKick
    | .kick => m.drive
    | .driving => m.drive
    | .coasting => m.drive
    | .braking => m.startKick
  else
    match m.state with
    | .stopped => m
    | .kick => m.coast
    | .driving => m.coast
    | .coasting => m
    | .braking => m.stop

/-- A change of the Drive Ceiling with a step in hand: the columns of R94 without a new step. -/
def Motor.limit (m : Motor) (s : PatternStep) (ceiling : Nat) : Motor :=
  if s.kindNamed = some .drive then
    if 0 < s.effective ceiling then
      match m.state with
      | .stopped => m.startKick
      | .kick => m
      | .driving => m
      | .coasting => m.drive
      | .braking => m
    else
      match m.state with
      | .stopped => m
      | .kick => m.coast
      | .driving => m.coast
      | .coasting => m
      | .braking => m
  else m

/-- The drive strength of a motor state: the kick strength, the effective strength, the braking strength, or 0 (R94 to R96). -/
def MotorState.strength (state : MotorState) (inHand : Option PatternStep) (ceiling : Nat) : Nat :=
  match state with
  | .kick => min 15 ceiling
  | .driving => (inHand.map (·.effective ceiling)).getD 0
  | .braking => ceiling
  | .stopped => 0
  | .coasting => 0

/-- The Drive recomputes everything that depends on the ceiling (R97). -/
def Rumble.follow (r : Rumble) (ceiling : Nat) : Rumble :=
  let m := match r.stepInHand with
    | some s => r.motor.limit s ceiling
    | none => r.motor
  { r with motor := { m with strength := m.state.strength r.stepInHand ceiling } }

/-! ## Posts (section 13.3) -/

/-- The codes of a request's source. -/
def RumbleSource.code : RumbleSource → Nat
  | .action => 0
  | .command => 1
  | .cueLink => 2

/-- The causes of a removal (R93). -/
inductive CutCause where
  | preempt
  | displaced
  | voice
  | cut
  | disabled
  | table
  | sleep
  deriving DecidableEq, Repr

/-- The codes of the causes (section 13.3). -/
def CutCause.code : CutCause → Nat
  | .preempt => 0
  | .displaced => 1
  | .voice => 2
  | .cut => 3
  | .disabled => 4
  | .table => 5
  | .sleep => 6

/-- RUMBLE_CUT for a removed request, if its notify is yes (R93). -/
def Request.cutPost (q : Request) (cause : CutCause) (queued : Bool) : List Posting :=
  if q.notify then
    [(.rumbleCut, q.pattern, Field.put cause.code 12 3 + Field.mark queued 10 + Field.put q.source.code 8 2)]
  else []

/-- RUMBLE_END for a finished request, if its notify is yes (R92). -/
def Request.endPost (q : Request) : List Posting :=
  if q.notify then [(.rumbleEnd, q.pattern, Field.put q.source.code 8 2 + Field.put q.priority 0 3)] else []

/-! ## Playing (R92) -/

/-- A request starts at step 0 with all its plays to come; its first step begins from the motor's state. -/
def Rumble.start (r : Rumble) (q : Request) (ceiling : Nat) : Rumble :=
  let h := r.header q.pattern
  let s := r.patternStep q.pattern 0
  { r with
    playing := some { request := q, step := 0, ticksLeft := s.duration.toNat,
                      playsLeft := if h.repeats = 15 then none else some h.repeats.toNat }
    motor := r.motor.begin s ceiling }

/-- Nothing is playing any more: the front of the queue starts, or the end brake begins (R92, R93). -/
def Rumble.advanceQueue (r : Rumble) (ceiling : Nat) : Rumble :=
  match r.queue with
  | q :: rest => { r with playing := none, queue := rest }.start q ceiling
  | [] => { r with playing := none, motor := r.motor.endBrake }

/-- Every request is removed for a cause, the playing one first; the end brake begins if one was playing (R92, R93; log 32). -/
def Rumble.removeAll (r : Rumble) (cause : CutCause) : Rumble × List Posting :=
  match r.playing with
  | some p =>
    ({ r with playing := none, queue := [], motor := r.motor.endBrake },
      p.request.cutPost cause false ++ r.queue.flatMap (·.cutPost cause true))
  | none => ({ r with queue := [] }, r.queue.flatMap (·.cutPost cause true))

/-- How many requests the Drive holds, playing and queued. -/
def Rumble.held (r : Rumble) : Nat := (if r.playing.isSome then 1 else 0) + r.queue.length

/-- The Drive is told that a voice has stopped: the request linked to it is removed with cause VOICE (R99). -/
def Rumble.voiceStopped (r : Rumble) (voice ceiling : Nat) : Rumble × List Posting :=
  match r.playing.map (·.request) with
  | some q =>
    if q.voice = some voice then (r.advanceQueue ceiling, q.cutPost .voice false)
    else
      ({ r with queue := r.queue.filter (fun x => x.voice ≠ some voice) },
        (r.queue.filter (fun x => x.voice = some voice)).flatMap (·.cutPost .voice true))
  | none =>
    ({ r with queue := r.queue.filter (fun x => x.voice ≠ some voice) },
      (r.queue.filter (fun x => x.voice = some voice)).flatMap (·.cutPost .voice true))

/-! ## Submissions (R89 to R91) -/

/-- Why a submission is refused (R90). -/
inductive RumbleRefusal where
  | disabled
  | unplayable
  | queueFull
  deriving DecidableEq, Repr

/-- The codes of the reasons (section 13.3). -/
def RumbleRefusal.code : RumbleRefusal → Nat
  | .disabled => 1
  | .unplayable => 2
  | .queueFull => 3

/-- What became of a submission (R90). -/
inductive Submission where
  | started
  | queued
  | refused (reason : RumbleRefusal)
  deriving DecidableEq, Repr

/-- A priority raised by a priority request, or none (R56). -/
def raised (own : Nat) : Option Nat → Nat
  | some p => max own p
  | none => own

/-- The request a submission forms (R89). -/
def Rumble.form (r : Rumble) (pattern priority : Nat) (source : RumbleSource) (voice : Option Nat) : Request :=
  { pattern := pattern, priority := priority, source := source, voice := voice, notify := (r.header pattern).notify,
    arrival := r.nextArrival }

/-- A request joins the queue after every request of higher or equal priority (R91). -/
def joinQueue (q : Request) : List Request → List Request
  | [] => [q]
  | x :: xs => if q.priority ≤ x.priority then x :: joinQueue q xs else q :: x :: xs

/-- The lowest priority queued. -/
def lowestPriority (queue : List Request) : Nat := queue.foldl (fun m x => min m x.priority) 7

/-- The later-arrived of two requests. -/
def laterArrival (best : Option Request) (x : Request) : Option Request :=
  match best with
  | some y => if y.arrival ≤ x.arrival then some x else some y
  | none => some x

/-- Of the queued requests at the lowest priority, the one with the latest arrival (R90). -/
def displacedOf (queue : List Request) : Option Request :=
  (queue.filter (fun x => x.priority = lowestPriority queue)).foldl laterArrival none

/-- The most requests the queue holds (R91). -/
def queuePlaces : Nat := 4

/-- Whether a request of a priority would be refused for a full queue (R90). -/
def Rumble.wouldOverflow (r : Rumble) (priority : Nat) : Bool :=
  match r.playing with
  | some p =>
    decide (priority ≤ p.request.priority) && decide (queuePlaces ≤ r.queue.length) &&
      decide (priority ≤ lowestPriority r.queue)
  | none => false

/-- The Drive takes a submission whole, by the first line of R90 that applies. -/
def Rumble.submit (r : Rumble) (q : Request) (ceiling : Nat) : Rumble × List Posting × Submission :=
  let counted := { r with nextArrival := r.nextArrival + 1 }
  if !r.enabled then (r, [], .refused .disabled)
  else if !r.playable q.pattern then (r, [], .refused .unplayable)
  else
    match r.playing with
    | none => (counted.start q ceiling, [], .started)
    | some p =>
      if p.request.priority < q.priority then (counted.start q ceiling, p.request.cutPost .preempt false, .started)
      else if r.queue.length < queuePlaces then ({ counted with queue := joinQueue q r.queue }, [], .queued)
      else if lowestPriority r.queue < q.priority then
        match displacedOf r.queue with
        | some d => ({ counted with queue := joinQueue q (r.queue.erase d) }, d.cutPost .displaced true, .queued)
        | none => (r, [], .refused .queueFull)
      else (r, [], .refused .queueFull)

/-- RUMBLE_REFUSED for a refused submission from an action or a cue link (R90). -/
def Request.refusedPost (q : Request) (reason : RumbleRefusal) : Posting :=
  (.rumbleRefused, q.pattern, Field.put reason.code 12 2 + Field.put q.source.code 8 2 + Field.put q.priority 0 3)

/-! ## Ticks (R92, R94) -/

/-- The tick column of R94 before its ends: a kick tick fewer, a coast tick more, an end-brake tick fewer. -/
def Motor.tick (m : Motor) : Motor :=
  match m.state with
  | .kick => { m with kickLeft := m.kickLeft - 1 }
  | .coasting => { m with coastCount := m.coastCount + 1 }
  | .braking => { m with brakeLeft := m.brakeLeft - 1 }
  | .stopped => m
  | .driving => m

/-- A tick: one tick from the step in hand, and the motor's tick column. -/
def Rumble.tick (r : Rumble) : Rumble :=
  { r with
    playing := r.playing.map (fun p => { p with ticksLeft := p.ticksLeft - 1 })
    motor := r.motor.tick }

/-- The kick's third tick has been taken (R95). -/
def Rumble.kickEndDue (r : Rumble) : Bool := decide (r.motor.state = .kick ∧ r.motor.kickLeft = 0)

/-- The coast count has reached 16 (R94). -/
def Rumble.coastStopDue (r : Rumble) : Bool := decide (r.motor.state = .coasting ∧ 16 ≤ r.motor.coastCount)

/-- The end brake has run out (R92). -/
def Rumble.endBrakeDue (r : Rumble) : Bool :=
  decide (r.motor.state = .braking ∧ r.motor.brakeLeft = 0) && r.playing.isNone

/-- Whether the step in hand is the last of the request's last play. -/
def Rumble.atLastStep (r : Rumble) (p : Playing) : Bool :=
  decide ((r.header p.request.pattern).stepCount.toNat ≤ p.step + 1) && decide (p.playsLeft = some 0)

/-- The step in hand has no ticks left and another step follows (R92). -/
def Rumble.stepEndDue (r : Rumble) : Bool :=
  match r.playing with
  | some p => decide (p.ticksLeft = 0) && !r.atLastStep p
  | none => false

/-- The request's last play has ended (R92). -/
def Rumble.finishDue (r : Rumble) : Bool :=
  match r.playing with
  | some p => decide (p.ticksLeft = 0) && r.atLastStep p
  | none => false

/-- The kick ends: the motor enters DRIVING (R95). -/
def Rumble.endKick (r : Rumble) : Rumble := { r with motor := r.motor.drive }

/-- The motor is taken as stopped (R92, R94). -/
def Rumble.stopMotor (r : Rumble) : Rumble := { r with motor := r.motor.stop }

/-- A request goes on at a step. -/
def Rumble.goTo (r : Rumble) (p : Playing) (step : Nat) (playsLeft : Option Nat) (ceiling : Nat) : Rumble :=
  let s := r.patternStep p.request.pattern step
  { r with
    playing := some { p with step := step, ticksLeft := s.duration.toNat, playsLeft := playsLeft }
    motor := r.motor.begin s ceiling }

/-- The next step begins, or the pattern returns to step 0 and counts one play fewer (R92). -/
def Rumble.nextStep (r : Rumble) (ceiling : Nat) : Rumble :=
  match r.playing with
  | some p =>
    if p.step + 1 < (r.header p.request.pattern).stepCount.toNat then r.goTo p (p.step + 1) p.playsLeft ceiling
    else r.goTo p 0 (p.playsLeft.map (· - 1)) ceiling
  | none => r

/-- A motor in BRAKING for a BRAKE step becomes STOPPED when the step's ticks run out (R94). -/
def Motor.leaveBrakeStep (m : Motor) : Motor := if m.state = .braking then m.stop else m

/-- The request is finished: RUMBLE_END, then the front of the queue or the end brake (R92). -/
def Rumble.finish (r : Rumble) (ceiling : Nat) : Rumble × List Posting :=
  match r.playing with
  | some p => ({ r with motor := r.motor.leaveBrakeStep }.advanceQueue ceiling, p.request.endPost)
  | none => (r, [])

/-! ## At the chip -/

/-- The chip with the Drive's new state and its posts made. -/
def Ef24.withRumble (u : Ef24) (x : Rumble × List Posting) : Ef24 := { u with rumble := x.1 }.postAll x.2

/-- Every request is removed for a cause (R93). -/
def Ef24.removeRumble (u : Ef24) (cause : CutCause) : Ef24 := u.withRumble (u.rumble.removeAll cause)

/-- The Drive takes a submission; a refused action or cue link posts RUMBLE_REFUSED (R90). -/
def Ef24.submitRumble (u : Ef24) (q : Request) : Ef24 :=
  let x := u.rumble.submit q u.ceiling
  match x.2.2 with
  | .refused reason =>
    if q.source = .command then u.withRumble (x.1, x.2.1) else u.withRumble (x.1, x.2.1 ++ [q.refusedPost reason])
  | .started => u.withRumble (x.1, x.2.1)
  | .queued => u.withRumble (x.1, x.2.1)

/-- The Drive is told that a voice has stopped (R78, R99). -/
def Ef24.tellVoiceStopped (u : Ef24) (voice : Nat) : Ef24 := u.withRumble (u.rumble.voiceStopped voice u.ceiling)

end Sys2Proof.Machine
end

