-- ==== Sys2Proof/Machine/Sound.lean ====
section
/-! DEFINITION. The Sound Engine (Chapter 5): formats, voices and plays, samples and underruns, stops and ramps, the mixer.
An operation of a voice gives the voice and what it asks of other blocks, in order: posts, rumble submissions, and the
report that the voice has stopped. -/

namespace Sys2Proof.Machine

/-! ## Cues (R62, R65) -/

/-- The samples a ROM word of a format holds (R62). -/
def CueFormat.samplesPerWord : CueFormat → Nat
  | .tone => 1
  | .pcm8 => 2
  | .pcm16le => 1
  | .pcm16be => 1
  | .adpcm4 => 4

/-- The format of an entry; codes that name none do not pass the load checks (R63). -/
def CueEntry.formatOf (e : CueEntry) : CueFormat := e.formatNamed.getD .tone

/-- Whether an entry is a TONE cue. -/
def CueEntry.isTone (e : CueEntry) : Bool := e.formatOf == .tone

/-- The samples per word of an entry. -/
def CueEntry.perWord (e : CueEntry) : Nat := e.formatOf.samplesPerWord

/-- The ROM words a sampled cue occupies (R62). -/
def CueEntry.wordCount (e : CueEntry) : Nat := (e.length.toNat + e.perWord - 1) / e.perWord

/-- The ROM word after a sampled cue's last. -/
def CueEntry.endWord (e : CueEntry) : Nat := e.start.toNat + e.wordCount

/-- The ROM word that holds a sample. -/
def CueEntry.wordAt (e : CueEntry) (sample : Nat) : Nat := e.start.toNat + sample / e.perWord

/-- An entry of length 0 is empty (R62). -/
def CueEntry.isEmpty (e : CueEntry) : Bool := e.length == 0

/-- The linked pattern, or none (FFh). -/
def CueEntry.linkedPattern (e : CueEntry) : Option Nat := if e.linked = 255 then none else some e.linked.toNat

/-- A number held within the signed 16-bit range. -/
def clampSample (x : Int) : Int := max (-32768) (min 32767 x)

/-- The difference an ADPCM4 code makes at an exponent (R65). -/
def adpcmDifference (code exponent : Nat) : Int := Int.ofNat ((2 * (code % 8) + 1) * (16 * 2 ^ exponent) / 2)

/-- The predictor after an ADPCM4 code (R65). -/
def adpcmPredictor (code : Nat) (predictor : Int) (exponent : Nat) : Int :=
  if code / 8 % 2 = 1 then clampSample (predictor - adpcmDifference code exponent)
  else clampSample (predictor + adpcmDifference code exponent)

/-- The exponent after an ADPCM4 code (R65). -/
def adpcmExponent (code exponent : Nat) : Nat :=
  if code % 8 ≤ 1 then exponent - 1 else if code % 8 ≤ 5 then exponent else min 11 (exponent + 1)

/-- The two bytes of a word exchanged. -/
def swapBytes (w : Word) : Word := word (Field.put w.toNat 8 8 + Field.get w 8 8)

/-! ## What a voice asks of other blocks -/

/-- What a voice asks: a post, a rumble submission at entering PLAYING (R71), the report that it has stopped (R78). -/
inductive SoundEffect where
  | post (kind : EventKind) (index detail : Nat)
  | link (voice pattern priority : Nat)
  | stopped (voice : Nat)
  deriving DecidableEq, Repr

/-- The causes of CUE_END (section 13.3). -/
inductive CueCause where
  | finished
  | stopped
  | stolen
  | sleep
  deriving DecidableEq, Repr

/-- The codes of the causes. -/
def CueCause.code : CueCause → Nat
  | .finished => 0
  | .stopped => 1
  | .stolen => 2
  | .sleep => 3

/-- CUE_END for a play, if its notify is set; a count above 16,383 is reported as 16,383 (R76). -/
def Play.endPost (p : Play) (cause : CueCause) (underruns : Nat) : List SoundEffect :=
  if p.entry.notify then [.post .cueEnd p.cue (Field.put cause.code 14 2 + Field.put (min underruns 16383) 0 14)] else []

/-! ## Voices (R67 to R79) -/

/-- A voice is in use in every state other than FREE (R67). -/
def Voice.inUse (v : Voice) : Bool := v.state != .free

/-- Whether a voice is in PRIMING or PLAYING. -/
def Voice.live (v : Voice) : Bool := v.state == .priming || v.state == .playing

/-- Whether a voice's cue loops (R62). -/
def Voice.loops (v : Voice) : Bool := !v.play.entry.loopNone

/-- Whether a voice's cue still has words to fetch: a looping cue always (R73). -/
def Voice.wordsLeft (v : Voice) : Bool := v.loops || decide (v.fetchPoint < v.play.entry.endWord)

/-- Whether a voice holds a fetch request (R23). -/
def Voice.requests (v : Voice) : Bool :=
  v.live && !v.play.entry.isTone && decide (v.buffer.length ≤ 24) && v.wordsLeft

/-- The start values of the ADPCM4 decoder (R65). -/
def Voice.restartDecoder (v : Voice) : Voice := { v with predictor := 0, exponent := 0 }

/-- A voice enters PLAYING; its linked pattern is submitted once (R71). -/
def Voice.enterPlaying (i : Nat) (v : Voice) : Voice × List SoundEffect :=
  match v.play.entry.linkedPattern with
  | some pattern =>
    ({ v with state := .playing, elapsed := 0, phase := 0, linked := true }, [.link i pattern v.play.priority])
  | none => ({ v with state := .playing, elapsed := 0, phase := 0 }, [])

/-- The context a play begins with (R70). It gives the mixer 0 until its first sample is made: log 17 for a sampled cue, log 43
for a TONE that is stopped before its first output sample (R79). -/
def Voice.prime (v : Voice) (p : Play) : Voice :=
  { v with
    state := .priming, play := p, position := 0, phase := 0, fetchPoint := p.entry.start.toNat, buffer := [],
    held := none, predictor := 0, exponent := 0, underruns := 0, underrunPosted := false, next := none, linked := false,
    current := 0, elapsed := 0 }

/-- A play begins on a voice: TONE enters PLAYING at once, a sampled cue enters PRIMING (R70). -/
def Voice.begin (i : Nat) (v : Voice) (p : Play) : Voice × List SoundEffect :=
  if p.entry.isTone then (v.prime p).enterPlaying i else (v.prime p, [])

/-- The report that a voice has stopped, if it had submitted its linked pattern (R78). -/
def Voice.stopReport (i : Nat) (v : Voice) : List SoundEffect := if v.linked then [.stopped i] else []

/-- A voice in PRIMING or PLAYING ends its cue and enters RELEASING: CUE_END first, then the report (R69, R77, R78). -/
def Voice.release (i : Nat) (v : Voice) (cause : CueCause) : Voice × List SoundEffect :=
  ({ v with state := .releasing, buffer := [], held := none, linked := false, elapsed := 0 },
    v.play.endPost cause v.underruns ++ v.stopReport i)

/-- A voice becomes FREE, its buffer empty (R76, R79, R81). -/
def Voice.becomeFree (v : Voice) : Voice :=
  { v with state := .free, buffer := [], held := none, next := none, linked := false, elapsed := 0 }

/-- Whether a stop finds something to end on a voice (R77, R83). -/
def Voice.stoppable (v : Voice) : Bool := v.live || (v.state == .releasing && v.next.isSome)

/-- A stop reaches a voice (R77). -/
def Voice.stop (i : Nat) (v : Voice) : Voice × List SoundEffect :=
  match v.state with
  | .priming => v.release i .stopped
  | .playing => v.release i .stopped
  | .releasing =>
    match v.next with
    | some p => ({ v with next := none }, p.endPost .stopped 0)
    | none => (v, [])
  | .free => (v, [])

/-- What ENTERING_SLEEP does to a voice (R81; log 22). -/
def Voice.fallAsleep (i : Nat) (v : Voice) : Voice × List SoundEffect :=
  match v.state with
  | .priming => (v.becomeFree, v.play.endPost .sleep v.underruns ++ v.stopReport i)
  | .playing => (v.becomeFree, v.play.endPost .sleep v.underruns ++ v.stopReport i)
  | .releasing => (v.becomeFree, (v.next.map (fun p => p.endPost .sleep 0)).getD [])
  | .free => (v, [])

/-! ## Words and samples (R65, R72 to R75) -/

/-- A line is handed to a voice, which keeps the words from its fetch point on that its cue still needs (R73; log 19). A
PRIMING voice that then holds 8 words, or has received its cue's last word, enters PLAYING (R70). -/
def Voice.takeLine (i : Nat) (v : Voice) (line : Nat) (words : List Word) : Voice × List SoundEffect :=
  let e := v.play.entry
  let kept := if line ≤ v.fetchPoint then (words.drop (v.fetchPoint - line)).take (e.endWord - v.fetchPoint) else []
  let reached := v.fetchPoint + kept.length
  let w := { v with
    buffer := v.buffer ++ kept
    fetchPoint := if v.loops ∧ e.endWord ≤ reached then e.wordAt e.loopStart.toNat else reached }
  if w.state = .priming ∧ (8 ≤ w.buffer.length ∨ e.endWord ≤ reached) then w.enterPlaying i else (w, [])

/-- The sample a word gives at a place in it, with the decoder's next values (R65, section 13.4; log 20). -/
def decodeSample (e : CueEntry) (w : Word) (place : Nat) (predictor : Int) (exponent : Nat) : Int × Int × Nat :=
  match e.formatOf with
  | .tone => (0, predictor, exponent)
  | .pcm16le => (w.toInt, predictor, exponent)
  | .pcm16be => ((swapBytes w).toInt, predictor, exponent)
  | .pcm8 => ((BitVec.ofNat 8 (Field.get w (8 * place) 8)).toInt * 256, predictor, exponent)
  | .adpcm4 =>
    let code := Field.get w (4 * place) 4
    (adpcmPredictor code predictor exponent, adpcmPredictor code predictor exponent, adpcmExponent code exponent)

/-- A due sample taken from a word (R72). -/
def Voice.sampleFrom (v : Voice) (w : Word) : Voice :=
  let x := decodeSample v.play.entry w (v.position % v.play.entry.perWord) v.predictor v.exponent
  { v with
    held := some (v.play.entry.wordAt v.position, w), current := x.1, predictor := x.2.1, exponent := x.2.2
    position := v.position + 1 }

/-- The fetch point after an underrun: the word that holds the next sample due (R74; log 19). -/
def Voice.pointAfter (v : Voice) (position : Nat) : Nat :=
  if position < v.play.entry.length.toNat then v.play.entry.wordAt position
  else if v.loops then v.play.entry.wordAt v.play.entry.loopStart.toNat
  else v.play.entry.endWord

/-- A due sample for which the buffer holds no word (R74). -/
def Voice.underrun (i : Nat) (v : Voice) : Voice × List SoundEffect :=
  ({ v with
      current := 0, position := v.position + 1, underruns := min 65535 (v.underruns + 1), underrunPosted := true
      fetchPoint := v.pointAfter (v.position + 1), held := none, predictor := 0, exponent := 0 },
    if v.underrunPosted then [] else [.post .underrun i v.play.cue])

/-- A sample falls due (R72, R74): from the word in hand, else from the front of the buffer, else an underrun. -/
def Voice.takeSample (i : Nat) (v : Voice) : Voice × List SoundEffect :=
  match v.held, v.buffer with
  | some (address, w), [] => if address = v.play.entry.wordAt v.position then (v.sampleFrom w, []) else v.underrun i
  | some (address, w), x :: rest =>
    if address = v.play.entry.wordAt v.position then (v.sampleFrom w, []) else ({ v with buffer := rest }.sampleFrom x, [])
  | none, x :: rest => ({ v with buffer := rest }.sampleFrom x, [])
  | none, [] => v.underrun i

/-- The sample of a TONE at output sample m since it entered PLAYING (R66). -/
def toneSample (rate m : Nat) : Int := if 2 * rate * m / 32768 % 2 = 0 then 32767 else -32767

/-- One output sample of a TONE voice (R66; log 18). -/
def Voice.soundTone (v : Voice) : Voice :=
  { v with
    current := toneSample v.play.entry.rate.toNat v.elapsed
    elapsed := v.elapsed + 1
    position := (v.elapsed + 1) * 1000 / 32768 }

/-- One output sample of a sampled voice: its phase advances, and a sample may fall due (R72). -/
def Voice.advance (i : Nat) (v : Voice) : Voice × List SoundEffect :=
  let phase := v.phase + v.play.entry.rate.toNat
  if 32768 ≤ phase then { v with phase := phase - 32768, elapsed := v.elapsed + 1 }.takeSample i
  else ({ v with phase := phase, elapsed := v.elapsed + 1 }, [])

/-- One output sample of a voice (R66, R72, R79). -/
def Voice.output (i : Nat) (v : Voice) : Voice × List SoundEffect :=
  match v.state with
  | .free => (v, [])
  | .priming => ({ v with elapsed := v.elapsed + 1 }, [])
  | .releasing => ({ v with elapsed := v.elapsed + 1 }, [])
  | .playing => if v.play.entry.isTone then (v.soundTone, []) else v.advance i

/-! ## Ends and returns -/

/-- A looping cue has taken its last sample (R75). -/
def Voice.loopDue (v : Voice) : Bool :=
  v.state == .playing && !v.play.entry.isTone && v.loops && decide (v.play.entry.length.toNat ≤ v.position)

/-- The return to the loop start (R75; log 19). -/
def Voice.loopReturn (v : Voice) : Voice :=
  { v with
    position := v.play.entry.loopStart.toNat, held := none, predictor := 0, exponent := 0
    fetchPoint := if v.buffer = [] then v.play.entry.wordAt v.play.entry.loopStart.toNat else v.fetchPoint }

/-- A non-looping cue has passed its last sample, or a TONE cue its length (R76; log 18). -/
def Voice.endDue (v : Voice) : Bool :=
  v.state == .playing &&
    if v.play.entry.isTone then decide (v.play.entry.length.toNat * 32768 ≤ v.elapsed * 1000)
    else !v.loops && decide (v.play.entry.length.toNat ≤ v.position)

/-- The natural end (R76). -/
def Voice.naturalEnd (i : Nat) (v : Voice) : Voice × List SoundEffect :=
  (v.becomeFree, v.play.endPost .finished v.underruns ++ v.stopReport i)

/-- The ramp of a RELEASING voice, in 65,536ths (R79). -/
def Voice.ramp (v : Voice) : Nat := 65536 - 1000 * v.elapsed

/-- A RELEASING voice's ramp has reached 0 (R79). -/
def Voice.rampDue (v : Voice) : Bool := v.state == .releasing && v.ramp == 0

/-- The ramp ends: the voice becomes FREE or begins its next cue (R79). -/
def Voice.rampEnd (i : Nat) (v : Voice) : Voice × List SoundEffect :=
  match v.next with
  | some p => v.begin i p
  | none => (v.becomeFree, [])

/-- The fewest output samples that 20 ms can hold (R70; log 16). -/
def primeSamples : Nat := 655

/-- Whether a PRIMING voice may have reached the prime limit (R70; log 16). -/
def Voice.primeReached (v : Voice) : Bool := v.state == .priming && decide (primeSamples ≤ v.elapsed)

/-- Whether the prime limit has certainly passed (R70; log 16). -/
def Voice.primeDue (v : Voice) : Bool := v.state == .priming && decide (primeSamples + 1 ≤ v.elapsed)

/-- The prime limit: PLAYING with whatever the voice holds, its first sample due at once (R70; log 17). -/
def Voice.primeLimit (i : Nat) (v : Voice) : Voice × List SoundEffect :=
  let x := v.enterPlaying i
  let y := x.1.takeSample i
  (y.1, x.2 ++ y.2)

/-! ## The engine -/

/-- A cue's entry. -/
def Sound.cue (s : Sound) (n : Nat) : CueEntry := Table.get s.cues n CueEntry.empty

/-- A voice. -/
def Sound.voice (s : Sound) (i : Nat) : Voice := Table.get s.voices i Voice.reset

/-- The engine with one voice replaced. -/
def Sound.withVoice (s : Sound) (i : Nat) (v : Voice) : Sound := { s with voices := Table.put s.voices i v }

/-- The voices' numbers, in voice order. -/
def voiceNumbers : List Nat := [0, 1, 2, 3, 4, 5]

/-- One operation on one voice. -/
def Sound.onVoice (f : Nat → Voice → Voice × List SoundEffect) (x : Sound × List SoundEffect) (i : Nat) :
    Sound × List SoundEffect :=
  let y := f i (x.1.voice i)
  (x.1.withVoice i y.1, x.2 ++ y.2)

/-- One operation on all six voices, in voice order. -/
def Sound.onAll (s : Sound) (f : Nat → Voice → Voice × List SoundEffect) : Sound × List SoundEffect :=
  voiceNumbers.foldl (Sound.onVoice f) (s, [])

/-- A voice stopped by STOP_CUE: one playing or priming the cue, or holding it as its next cue (R77). -/
def Voice.stopIfCue (cue : Nat) (i : Nat) (v : Voice) : Voice × List SoundEffect :=
  if (v.live ∧ v.play.cue = cue) ∨ (v.next.map (·.cue)) = some cue then v.stop i else (v, [])

/-- How many voices a stop of all would end something on (R83). -/
def Sound.stoppableCount (s : Sound) : Nat := (voiceNumbers.filter (fun i => (s.voice i).stoppable)).length

/-- Whether any voice is in use (R181). -/
def Sound.anyInUse (s : Sound) : Bool := voiceNumbers.any (fun i => (s.voice i).inUse)

/-- Whether a voice may be stolen at a priority (R68). -/
def Sound.stealable (s : Sound) (priority i : Nat) : Bool := (s.voice i).live && decide ((s.voice i).play.priority ≤ priority)

/-- Whether voice i is to be stolen before voice j: lower effective priority, then older start order (R68). -/
def Sound.stealsBefore (s : Sound) (i j : Nat) : Bool :=
  decide ((s.voice i).play.priority < (s.voice j).play.priority) ||
    (decide ((s.voice i).play.priority = (s.voice j).play.priority) &&
      decide ((s.voice i).play.order < (s.voice j).play.order))

/-- The better of two voices to steal. -/
def Sound.betterSteal (s : Sound) (best : Option Nat) (i : Nat) : Option Nat :=
  match best with
  | some j => if s.stealsBefore i j then some i else some j
  | none => some i

/-- How a play gets its voice (R68). -/
inductive Allocation where
  | free (voice : Nat)
  | releasing (voice : Nat)
  | steal (voice : Nat)
  deriving DecidableEq, Repr

/-- The number of the voice allocated. -/
def Allocation.voice : Allocation → Nat
  | .free i => i
  | .releasing i => i
  | .steal i => i

/-- The voice for a play of an effective priority (R68, step 4). -/
def Sound.allocate (s : Sound) (priority : Nat) : Option Allocation :=
  match voiceNumbers.find? (fun i => (s.voice i).state == .free) with
  | some i => some (.free i)
  | none =>
    match voiceNumbers.find? (fun i => (s.voice i).state == .releasing && (s.voice i).next.isNone) with
    | some i => some (.releasing i)
    | none => ((voiceNumbers.filter (s.stealable priority)).foldl s.betterSteal none).map .steal

/-- What became of a play request (R68). -/
inductive PlayResult where
  | accepted (voice : Nat)
  | unplayable
  | noVoice (priority : Nat)
  deriving DecidableEq, Repr

/-- A play is placed on its voice (R68, R69). -/
def Sound.place (s : Sound) (p : Play) : Allocation → Sound × List SoundEffect
  | .free i =>
    let x := (s.voice i).begin i p
    (s.withVoice i x.1, x.2)
  | .releasing i => (s.withVoice i { s.voice i with next := some p }, [])
  | .steal i =>
    let x := (s.voice i).release i .stolen
    (s.withVoice i { x.1 with next := some p }, x.2)

/-- The engine takes a play request whole (R68). `allowed` says whether the chip state lets a voice be allocated. -/
def Sound.request (s : Sound) (cue : Nat) (priorityRequest : Option Nat) (allowed : Bool) :
    Sound × List SoundEffect × PlayResult :=
  let e := s.cue cue
  let priority := raised e.priority.toNat priorityRequest
  if e.isEmpty then (s, [], .unplayable)
  else if !allowed then (s, [], .noVoice priority)
  else
    match s.allocate priority with
    | none => (s, [], .noVoice priority)
    | some a =>
      let p : Play := { cue := cue, entry := e, priority := priority, order := s.nextOrder }
      let x := { s with nextOrder := s.nextOrder + 1 }.place p a
      (x.1, x.2, .accepted a.voice)

/-! ## The mixer (R80) -/

/-- What a voice adds to the mix, in units of 1 / (15 × 65,536). -/
def Voice.contribution (v : Voice) : Int :=
  match v.state with
  | .playing => v.current * v.play.entry.volume.toNat * 65536
  | .releasing => v.current * v.play.entry.volume.toNat * v.ramp
  | .free => 0
  | .priming => 0

/-- The sum of the six voices. -/
def Sound.mixSum (s : Sound) : Int := voiceNumbers.foldl (fun (sum : Int) i => sum + (s.voice i).contribution) 0

/-- The output sample of the six voices: fraction dropped toward zero, held within the signed 16-bit range (R80). -/
def Sound.mix (s : Sound) : Int := clampSample (Int.tdiv (s.mixSum * Int.ofNat s.masterVolume) (15 * 15 * 65536))

/-- One output sample of the engine (R72, R80; log 21). -/
def Sound.output (s : Sound) : Sound × List SoundEffect :=
  let x := s.onAll Voice.output
  ({ x.1 with aout := x.1.mix }, x.2)

/-! ## At the chip -/

/-- One thing a voice asks of another block. -/
def Ef24.perform (u : Ef24) : SoundEffect → Ef24
  | .post kind index detail => u.post kind index detail
  | .link voice pattern priority => u.submitRumble (u.rumble.form pattern priority .cueLink (some voice))
  | .stopped voice => u.tellVoiceStopped voice

/-- The chip with the engine's new state and everything its voices ask done in order. -/
def Ef24.withSound (u : Ef24) (x : Sound × List SoundEffect) : Ef24 := x.2.foldl Ef24.perform { u with sound := x.1 }

/-- One operation on one voice. -/
def Ef24.onVoice (u : Ef24) (f : Nat → Voice → Voice × List SoundEffect) (i : Nat) : Ef24 :=
  u.withSound (Sound.onVoice f (u.sound, []) i)

/-- Voices are allocated in RUN only (R68). -/
def Ef24.playsOpen (u : Ef24) : Bool := u.chip == some .run

/-- CUE_REFUSED for a refused PLAY_CUE action (R68). -/
def Ef24.refuseCue (u : Ef24) (cue : Nat) : PlayResult → Ef24
  | .accepted _ => u
  | .unplayable => u.post .cueRefused cue 0
  | .noVoice priority => u.post .cueRefused cue (Field.put 1 8 1 + Field.put priority 0 3)

/-- A PLAY_CUE action reaches the engine (R68). -/
def Ef24.playCueAction (u : Ef24) (cue : Nat) (priorityRequest : Option Nat) : Ef24 :=
  let x := u.sound.request cue priorityRequest u.playsOpen
  (u.withSound (x.1, x.2.1)).refuseCue cue x.2.2

/-- A STOP_CUE action stops the voices it matches, in voice order (R77; the order: log 21). -/
def Ef24.stopCue (u : Ef24) (cue : Nat) : Ef24 := u.withSound (u.sound.onAll (Voice.stopIfCue cue))

/-- A SILENCE action, and SOUND STOP ALL (R77, R83). -/
def Ef24.silence (u : Ef24) : Ef24 := u.withSound (u.sound.onAll Voice.stop)

/-- Every voice ends at ENTERING_SLEEP, and AOUT goes to midscale (R81; log 31). -/
def Ef24.soundSleep (u : Ef24) : Ef24 :=
  u.withSound ({ (u.sound.onAll Voice.fallAsleep).1 with aout := 0 }, (u.sound.onAll Voice.fallAsleep).2)

end Sys2Proof.Machine
end

