-- ==== Sys2Proof/Machine/RomPort.lean ====
section
/-! DEFINITION. The Fetch Arbiter of the ROM port (Chapter 2): who holds a fetch request, who wins the next line fetch, and the
orphan mark. -/

namespace Sys2Proof.Machine

/-- The image words a load needs. -/
def Load.needed (l : Load) : Nat := l.count * l.table.entrySize

/-- Whether a requester holds a fetch request (R23, R24). -/
def Ef24.holdsRequest (u : Ef24) : Requester → Bool
  | .voice i => (u.sound.voice i).requests
  | .loader => u.loader.any (fun l => l.phase == .fetching && decide (l.staged.length < l.needed))

/-- The buffered words a requester counts as (R23, R24). -/
def Ef24.bufferedWords (u : Ef24) : Requester → Nat
  | .voice i => (u.sound.voice i).buffer.length
  | .loader => 16

/-- The line address of a requester's request (R23, R24). -/
def Ef24.lineAddress (u : Ef24) : Requester → Nat
  | .voice i => (u.sound.voice i).fetchPoint
  | .loader => match u.loader with
    | some l => l.source.getD 0 + l.staged.length
    | none => 0

/-- The requesters, in the order in which equal counts are decided: voices by number, then the Loader (R26). -/
def requesters : List Requester := voiceNumbers.map Requester.voice ++ [.loader]

/-- The better of two requesters: fewer buffered words, the earlier of equals (R26). -/
def Ef24.betterRequester (u : Ef24) (best : Option Requester) (r : Requester) : Option Requester :=
  match best with
  | some b => if u.bufferedWords r < u.bufferedWords b then some r else some b
  | none => some r

/-- The Fetch Arbiter's winner (R26). -/
def Ef24.fetchWinner (u : Ef24) : Option Requester := (requesters.filter u.holdsRequest).foldl u.betterRequester none

/-- The Fetch Arbiter grants one line fetch while the port is IDLE and a request stands (R26). -/
def Ef24.grantFetch (u : Ef24) : Ef24 :=
  match u.romPort, u.fetchWinner with
  | .idle, some r =>
    { u with romPort := .fetching { requester := r, line := u.lineAddress r, words := [], orphan := false } }
  | _, _ => u

/-- A requester that has given up its request during its fetch: the orphan mark is set (R27). -/
def Ef24.markOrphan (u : Ef24) : Ef24 :=
  match u.romPort with
  | .fetching f => if u.holdsRequest f.requester then u else { u with romPort := .fetching { f with orphan := true } }
  | .idle => u
  | .console => u

/-- The orphan mark and the Fetch Arbiter, while the core runs (R26, R27). -/
def Ef24.updateRomPort (u : Ef24) : Ef24 := if u.coreRunning then u.markOrphan.grantFetch else u

end Sys2Proof.Machine
end

