-- ==== Sys2Proof/Machine/FlagPage.lean ====
section
/-! DEFINITION. The flag page (Chapter 8): the Flag Operation List, the flag-word access, flag actions. -/

namespace Sys2Proof.Machine

/-! ## One flag-word access (R129 to R131) -/

/-- The flag word of an operation's last turn. -/
def FlagOp.lastWord (op : FlagOp) : Nat := (op.first + op.count - 1) / 16

/-- Whether bit i of the word of this turn is a flag of the operation's range. -/
def FlagOp.covers (op : FlagOp) (i : Nat) : Bool :=
  decide (op.first ≤ 16 * op.nextWord + i ∧ 16 * op.nextWord + i < op.first + op.count)

/-- The bits of this turn's word that lie in the range. -/
def FlagOp.bits (op : FlagOp) : List Nat := (upTo 16).filter op.covers

/-- A word with one bit set alone. -/
def bitWord (i : Nat) : Word := (1 : Word) <<< i

/-- The word of this turn with a 1 at every bit in the range. -/
def FlagOp.mask (op : FlagOp) : Word := op.bits.foldl (fun m i => m ||| bitWord i) 0

/-- The word written back; TEST and SCAN write none, which leaves the word as read (R131). -/
def FlagOp.written (op : FlagOp) (w : Word) : Word :=
  match op.kind with
  | .test => w
  | .set => w ||| op.mask
  | .clear => w &&& ~~~op.mask
  | .toggle => w ^^^ op.mask
  | .scan => w
  | .clearRange => w &&& ~~~op.mask

/-- The lowest flag of the word in the range that equals the polarity (R131, R133). -/
def FlagOp.hit (op : FlagOp) (w : Word) : Option Nat :=
  (op.bits.find? (fun i => w.getLsbD i == op.polarity)).map (16 * op.nextWord + ·)

/-- The set flags of the word in the range (R131). -/
def FlagOp.setCount (op : FlagOp) (w : Word) : Nat := (op.bits.filter (fun i => w.getLsbD i)).length

/-- Whether the operation is finished after this access (R130). -/
def FlagOp.finished (op : FlagOp) (w : Word) : Bool :=
  match op.kind with
  | .test => true
  | .set => true
  | .clear => true
  | .toggle => true
  | .scan => (op.hit w).isSome || decide (op.lastWord ≤ op.nextWord)
  | .clearRange => decide (op.lastWord ≤ op.nextWord)

/-- The value of the single flag, as its word was read. -/
def FlagOp.prior (op : FlagOp) (w : Word) : Word := if w.getLsbD (op.first % 16) then 1 else 0

/-- The result word of a finished command operation (R132 to R134). -/
def FlagOp.answer (op : FlagOp) (w : Word) : Word :=
  match op.kind with
  | .test => op.prior w
  | .set => op.prior w
  | .clear => op.prior w
  | .toggle => op.prior w
  | .scan => ((op.hit w).map word).getD noneWord
  | .clearRange => word (op.tally + op.setCount w)

/-- The operation after a turn that did not finish it (R130). -/
def FlagOp.afterTurn (op : FlagOp) (w : Word) : FlagOp :=
  { op with
    nextWord := op.nextWord + 1
    tally := match op.kind with
      | .clearRange => op.tally + op.setCount w
      | .test => op.tally
      | .set => op.tally
      | .clear => op.tally
      | .toggle => op.tally
      | .scan => op.tally }

/-! ## The list -/

/-- A new operation, its first turn at the word of its first flag (R130). -/
def FlagOp.new (kind : FlagKind) (fromCommand : Bool) (first count : Nat) (polarity : Bool) : FlagOp :=
  { kind := kind, fromCommand := fromCommand, first := first, count := count, nextWord := first / 16, polarity := polarity,
    tally := 0 }

/-- An accepted operation joins the back of the list (R130). -/
def Ef24.joinFlags (u : Ef24) (op : FlagOp) : Ef24 := { u with save := { u.save with flags := u.save.flags ++ [op] } }

/-- Whether the executing command's flag operation waits in the list. -/
def Ef24.awaitsFlag (u : Ef24) : Bool := u.save.flags.any (·.fromCommand)

/-- The most action operations the list holds (R130). -/
def flagActionPlaces : Nat := 8

/-- The operations from actions in the list. -/
def Save.actionOps (s : Save) : Nat := (s.flags.filter (fun op => !op.fromCommand)).length

/-- The front operation's flag-word access completes (R130, R131). -/
def Ef24.flagAccess (u : Ef24) : Ef24 :=
  match u.save.flags with
  | [] => u
  | op :: rest =>
    let w := u.sram.read (flagPageBase + op.nextWord)
    let sram := u.sram.write (flagPageBase + op.nextWord) (op.written w)
    if op.finished w then
      let v := { u with sram := sram, save := { u.save with flags := rest, port := none } }
      if op.fromCommand then v.respond .ok [op.answer w] else v
    else { u with sram := sram, save := { u.save with flags := rest ++ [op.afterTurn w], port := none } }

/-- SAVE_FAULT cause FLAGS: reason 0 NOT_READY, 2 FULL (section 13.3). -/
def flagsFault (reason : Nat) : Nat := Field.mark true 12 + Field.put reason 0 2

/-- A flag action request (R135). -/
def Ef24.flagAction (u : Ef24) (action : Nat) (kind : FlagKind) (first count : Nat) : Ef24 :=
  if u.save.volume ≠ .ready then u.post .saveFault action (flagsFault 0)
  else if flagActionPlaces ≤ u.save.actionOps then u.post .saveFault action (flagsFault 2)
  else u.joinFlags (FlagOp.new kind false first count false)

end Sys2Proof.Machine
end

