-- ==== Sys2Proof/Machine/Time.lean ====
section
/-! DEFINITION. The arithmetic of the calendar (R138, R139, R142, R147): seconds, carries, instants, weekdays, rollover
instants. -/

namespace Sys2Proof.Machine

/-- February has 29 days in every year divisible by 4 (R139). -/
def leapYear (year : Nat) : Bool := year % 4 == 0

/-- The days of a month (R139); 0 for a number that names no month. -/
def monthDays (year month : Nat) : Nat :=
  match month with
  | 1 => 31
  | 2 => if leapYear year then 29 else 28
  | 3 => 31
  | 4 => 30
  | 5 => 31
  | 6 => 30
  | 7 => 31
  | 8 => 31
  | 9 => 30
  | 10 => 31
  | 11 => 30
  | 12 => 31
  | _ => 0

/-- The days of a year before one of its months. -/
def daysBeforeMonth (year month : Nat) : Nat := ((upTo (month - 1)).map (fun k => monthDays year (k + 1))).sum

/-- The days from 2000-01-01 to a year's first day. -/
def daysBeforeYear (year : Nat) : Nat := 365 * (year - 2000) + (year - 2000 + 3) / 4

/-- The days from 2000-01-01 to a reading's date. -/
def DateTime.days (t : DateTime) : Nat := daysBeforeYear t.year + daysBeforeMonth t.year t.month + (t.date - 1)

/-- The calendar instant: the seconds from 2000-01-01 00:00:00 to a reading (R138). -/
def DateTime.instant (t : DateTime) : Nat := t.days * 86400 + t.hour * 3600 + t.minute * 60 + t.second

/-- The weekday, 0 for Sunday; 2000-01-01 is a Saturday, 6 (R139). -/
def DateTime.weekday (t : DateTime) : Nat := (t.days + 6) % 7

/-- The last reading, 2099-12-31 23:59:59 (R138). -/
def DateTime.last : DateTime := { year := 2099, month := 12, date := 31, hour := 23, minute := 59, second := 59 }

/-- The next date, with the carries of R139. -/
def DateTime.nextDate (t : DateTime) : DateTime :=
  if t.date < monthDays t.year t.month then { t with date := t.date + 1 }
  else if t.month < 12 then { t with date := 1, month := t.month + 1 }
  else { t with date := 1, month := 1, year := t.year + 1 }

/-- The next second, with the carries of R139. -/
def DateTime.next (t : DateTime) : DateTime :=
  if t.second < 59 then { t with second := t.second + 1 }
  else if t.minute < 59 then { t with second := 0, minute := t.minute + 1 }
  else if t.hour < 23 then { t with second := 0, minute := 0, hour := t.hour + 1 }
  else { t with second := 0, minute := 0, hour := 0 }.nextDate

/-- Whether six fields are a reading of the calendar (R146). -/
def DateTime.exists_ (t : DateTime) : Bool :=
  decide (2000 ≤ t.year ∧ t.year ≤ 2099) && decide (1 ≤ t.month ∧ t.month ≤ 12) &&
    decide (1 ≤ t.date ∧ t.date ≤ monthDays t.year t.month) && decide (t.hour ≤ 23) && decide (t.minute ≤ 59) &&
    decide (t.second ≤ 59)

/-- A rollover instant: the calendar reads the Day Start Hour, 0 minutes, 0 seconds (R142). -/
def DateTime.isRollover (t : DateTime) (dayStart : Nat) : Bool :=
  decide (t.hour = dayStart ∧ t.minute = 0 ∧ t.second = 0)

/-- The rollover instants from 2000-01-01 00:00:00 to an instant, both ends counted. -/
def rolloversUpTo (dayStart instant : Nat) : Nat := (instant + 86400 - dayStart * 3600) / 86400

/-- The rollover instants after one instant and at or before another (R147). -/
def rolloversBetween (dayStart after upto : Nat) : Nat := rolloversUpTo dayStart upto - rolloversUpTo dayStart after

end Sys2Proof.Machine
end

