-- ==== Sys2Proof/Machine/Save.lean ====
section
/-! DEFINITION. The Save Controller (Chapter 7): slots and views, the Posted Write Buffer, the sequencer's accesses, what each
step's end does, start-up recovery, the gate. -/

namespace Sys2Proof.Machine

/-! ## Slots and views (R108) -/

/-- What the core keeps for slot k. -/
def Save.slot (s : Save) (k : Nat) : Slot := Table.get s.slots k Slot.reset

/-- The controller with one slot changed. -/
def Save.onSlot (s : Save) (k : Nat) (f : Slot → Slot) : Save := { s with slots := Table.put s.slots k (f (s.slot k)) }

/-- The image a slot's SAVE_STAGE view shows (R108). -/
def Slot.stagingImage (x : Slot) : Image :=
  match x.phase with
  | .intentWritten view => view
  | .none => if x.record.valid then x.record.live.other else .a

/-- The first SRAM word of slot k's staging image. -/
def Save.stagingBase (s : Save) (k : Nat) : Nat := imageBase s.sizes k (s.slot k).stagingImage

/-- The first SRAM word of slot k's live image. -/
def Save.liveBase (s : Save) (k : Nat) : Nat := imageBase s.sizes k (s.slot k).record.live

/-- The words of an image of slot k. -/
def Save.slotWords (s : Save) (k : Nat) : Nat := imageWords s.sizes k

/-- Whether the buffer holds an entry of slot k. -/
def Save.holdsEntryOf (s : Save) (k : Nat) : Bool := s.buffer.any (fun p => p.slot == k)

/-- The chip with its Save Controller changed. -/
def Ef24.onSave (u : Ef24) (f : Save → Save) : Ef24 := { u with save := f u.save }

/-- The sequencer moved to a step. -/
def Ef24.sequence (u : Ef24) (q : Sequencer) : Ef24 := u.onSave (fun s => { s with sequencer := q })

/-- The Tainted mark of slot k (R109). -/
def Ef24.setTainted (u : Ef24) (k : Nat) (b : Bool) : Ef24 :=
  u.onSave (fun s => s.onSlot k (fun x => { x with tainted := b }))

/-- The Bad mark of slot k (R109). -/
def Ef24.setBad (u : Ef24) (k : Nat) (b : Bool) : Ef24 := u.onSave (fun s => s.onSlot k (fun x => { x with bad := b }))

/-- The Commit Guard raised or lowered (R116). -/
def Ef24.setGuard (u : Ef24) (b : Bool) : Ef24 := u.onSave (fun s => { s with guard := b })

/-! ## Reads through the Posted Write Buffer (R113) -/

/-- The newest data the buffer holds for an address. -/
def newestPosted (buffer : List Posted) (address : Nat) : Option Word :=
  ((buffer.filter (fun p => p.address = address)).getLast?).map (·.data)

/-- What a console save read of an SRAM word receives: the newest posted data, else the SRAM word (R113). -/
def Ef24.savedWord (u : Ef24) (address : Nat) : Word := (newestPosted u.save.buffer address).getD (u.sram.read address)

/-- A console save or flag read takes the port: the internal access in progress is abandoned (R110, R111). -/
def Ef24.takeSramPort (u : Ef24) : Ef24 := u.onSave (fun s => { s with port := none })

/-! ## Console writes into a staging image (R112, R115, R119, R120) -/

/-- Whether the later steps of a commit of slot k, or a discard of it, are in progress: a write is dropped. -/
def Sequencer.dropsWrites : Sequencer → Nat → Bool
  | .intent _ k _ _, slot => k == slot
  | .switching _ k _ _, slot => k == slot
  | .closing _ k _, slot => k == slot
  | _, _ => false

/-- Whether a commit of slot k is in DRAINING, SCANNING or GUARDING: a write ends it. -/
def Sequencer.commitDisturbed : Sequencer → Nat → Bool
  | .commitDraining k _, slot => k == slot
  | .scanning k _ _ _, slot => k == slot
  | .guarding k _ _, slot => k == slot
  | _, _ => false

/-- Whether slot k is being seeded: a write ends the seed. -/
def Sequencer.seedDisturbed : Sequencer → Nat → Bool
  | .seedDraining k, slot => k == slot
  | .copying k _ _, slot => k == slot
  | _, _ => false

/-- The most entries the Posted Write Buffer holds (R112). -/
def postedPlaces : Nat := 8

/-- SAVE_FAULT cause OVERRUN (section 13.3). -/
def overrunDetail : Nat := Field.mark false 12

/-- A write is posted, or dropped because the buffer is full (R112, last two cases). -/
def Ef24.postWrite (u : Ef24) (slot offset : Nat) (value : Word) : Ef24 :=
  if postedPlaces ≤ u.save.buffer.length then (u.setTainted slot true).post .saveFault slot overrunDetail
  else
    u.onSave (fun s => { s with
      buffer := s.buffer ++ [{ address := s.stagingBase slot + offset, data := value, slot := slot }] })

/-- A commit is ended DISTURBED (R119). -/
def Ef24.disturbCommit (u : Ef24) (slot : Nat) : Ef24 :=
  ((u.sequence .idle).setGuard false).postDone .slotCommit .disturbed slot

/-- A seed is ended DISTURBED (R115). -/
def Ef24.disturbSeed (u : Ef24) (slot : Nat) : Ef24 :=
  ((u.sequence .idle).postDone .slotSeed .disturbed slot).setTainted slot true

/-- A console write of a word of slot's staging image, inside the image (R112). -/
def Ef24.stageWrite (u : Ef24) (slot offset : Nat) (value : Word) : Ef24 :=
  if u.save.sequencer.dropsWrites slot then u.setTainted slot true
  else if u.save.sequencer.commitDisturbed slot then (u.disturbCommit slot).postWrite slot offset value
  else if u.save.sequencer.seedDisturbed slot then (u.disturbSeed slot).postWrite slot offset value
  else u.postWrite slot offset value

/-! ## The buffer drains (R113) -/

/-- The oldest entry's word write completes. -/
def Ef24.drainOne (u : Ef24) : Ef24 :=
  match u.save.buffer with
  | [] => u
  | p :: rest => { u with sram := u.sram.write p.address p.data, save := { u.save with buffer := rest, port := none } }

/-- Every entry is written, oldest first (R125). -/
def Ef24.drainAll (u : Ef24) : Ef24 :=
  { u with
    sram := u.sram.writeAll (u.save.buffer.map (fun p => (p.address, p.data)))
    save := { u.save with buffer := [], port := none } }

/-! ## Start-up recovery (section 7.9) -/

/-- The chip in a stage of recovery. -/
def Ef24.recover (u : Ef24) (stage : RecoveryStage) : Ef24 := u.sequence (.recovering stage)

/-- The volume record's words have been read: UNFORMATTED, or the copy is loaded and the intent record is next (R126). -/
def Ef24.judgeVolume (u : Ef24) (ws : List Word) : Ef24 :=
  if volumeValid ws u.sramCode then
    (u.onSave (fun s => { s with slotCount := (imageWord ws 1).toNat, sizes := volumeSizes ws })).recover (.intentRecord [])
  else u.onSave (fun s => { s with volume := .unformatted, sequencer := .idle })

/-- The slot record that resolves an intent: the new one, or the prior one when the CRCs differ (R126). -/
def Ef24.resolveIntent (u : Ef24) (slot : Nat) (new prior : SlotRecord) (forward : Bool) : Ef24 :=
  u.recover (.resolving slot forward (slotRecordWrites slot (if forward then new else prior) ++ intentClear))

/-- An intent's image is judged by its CRC (R126). -/
def Ef24.judgeIntent (u : Ef24) (slot : Nat) (new prior : SlotRecord) (index : Nat) (crc : Word) : Ef24 :=
  if index < new.dataWords then u.recover (.intentScan slot new prior index crc)
  else u.resolveIntent slot new prior (crc == new.crc)

/-- The slot an intent record names: 0 to 7 (R105; log 24). -/
def intentSlot (ws : List Word) : Nat := (imageWord ws 1).toNat % 8

/-- The intent record's words have been read (R126). -/
def Ef24.readIntent (u : Ef24) (ws : List Word) : Ef24 :=
  if intentValid ws then
    let new := SlotRecord.ofWords (ws.drop 2)
    let prior := SlotRecord.ofWords (ws.drop 12)
    if new.valid then u.judgeIntent (intentSlot ws) new prior 0 crcStart
    else u.resolveIntent (intentSlot ws) new prior true
  else u.recover (.slotRecord 0 [])

/-- A verified slot whose CRC differs: Bad, and RECOVERY outcome LIVE_BAD (R128). -/
def Ef24.judgeLive (u : Ef24) (k : Nat) (crc : Word) : Ef24 :=
  if crc = (u.save.slot k).record.crc then u else (u.setBad k true).post .recovery k 3

/-- Verification from slot k on: the next VALID slot is read, or recovery is finished (R128). `fuel` bounds the slots. -/
def Ef24.verifyFrom (u : Ef24) : Nat → Nat → Ef24
  | 0, _ => u.recover .finished
  | fuel + 1, k =>
    if u.save.slotCount ≤ k then u.recover .finished
    else if !(u.save.slot k).record.valid then u.verifyFrom fuel (k + 1)
    else if (u.save.slot k).record.dataWords = 0 then (u.judgeLive k crcStart).verifyFrom fuel (k + 1)
    else u.recover (.verifying k 0 crcStart)

/-- After slot k's record: the next record, or verification (R127, R128). -/
def Ef24.afterRecord (u : Ef24) (k : Nat) : Ef24 :=
  if k + 1 < u.save.slotCount then u.recover (.slotRecord (k + 1) []) else u.verifyFrom 8 0

/-- The core copy of slot k's record. -/
def Ef24.copyRecord (u : Ef24) (k : Nat) (r : SlotRecord) : Ef24 :=
  u.onSave (fun s => s.onSlot k (fun x => { x with record := r }))

/-- Slot k's record words have been read: the copy is loaded, or the record is written EMPTY (R127). -/
def Ef24.judgeRecord (u : Ef24) (k : Nat) (ws : List Word) : Ef24 :=
  if checkPasses ws 10 then (u.copyRecord k (SlotRecord.ofWords ws)).afterRecord k
  else u.recover (.rewriting k (slotRecordWrites k (SlotRecord.empty 0)))

/-- The outcome posted for a resolved intent: FORWARD or DISCARDED (R126). -/
def resolvedDetail (forward : Bool) : Nat := if forward then 0 else 1

/-- One SRAM access of recovery completes (R126 to R128). -/
def Ef24.recoveryAccess (u : Ef24) : RecoveryStage → Ef24
  | .volumeRecord got =>
    let ws := got ++ [u.sram.read (volumeRecordWords.getD got.length 0)]
    if ws.length < volumeRecordWords.length then u.recover (.volumeRecord ws) else u.judgeVolume ws
  | .intentRecord got =>
    let ws := got ++ [u.sram.read (intentRecordWords.getD got.length 0)]
    if ws.length < intentRecordWords.length then u.recover (.intentRecord ws) else u.readIntent ws
  | .intentScan slot new prior index crc =>
    u.judgeIntent slot new prior (index + 1)
      (crcWord crc (u.sram.read (imageBase u.save.sizes slot new.live + index)))
  | .resolving slot forward writes =>
    match writes with
    | [] => u
    | (a, w) :: rest =>
      let v := { u with sram := u.sram.write a w }
      if rest = [] then (v.post .recovery slot (resolvedDetail forward)).recover (.slotRecord 0 [])
      else v.recover (.resolving slot forward rest)
  | .slotRecord k got =>
    let ws := got ++ [u.sram.read ((slotRecordWords k).getD got.length 0)]
    if ws.length < (slotRecordWords k).length then u.recover (.slotRecord k ws) else u.judgeRecord k ws
  | .rewriting k writes =>
    match writes with
    | [] => u
    | (a, w) :: rest =>
      let v := { u with sram := u.sram.write a w }
      if rest = [] then ((v.copyRecord k (SlotRecord.empty 0)).post .recovery k 2).afterRecord k
      else v.recover (.rewriting k rest)
  | .verifying k index crc =>
    let crc' := crcWord crc (u.sram.read (u.save.liveBase k + index))
    if index + 1 < (u.save.slot k).record.dataWords then u.recover (.verifying k (index + 1) crc')
    else (u.judgeLive k crc').verifyFrom 8 (k + 1)
  | .finished => u

/-! ## The sequencer's accesses (R110, R111) -/

/-- Whether a stage of recovery has an access to make. -/
def RecoveryStage.wants : RecoveryStage → Bool
  | .volumeRecord _ => true
  | .intentRecord _ => true
  | .intentScan _ _ _ _ _ => true
  | .resolving _ _ writes => !writes.isEmpty
  | .slotRecord _ _ => true
  | .rewriting _ writes => !writes.isEmpty
  | .verifying _ _ _ => true
  | .finished => false

/-- Whether the sequencer has an SRAM access of its current step to make (R110, claim 4). -/
def Save.wants (s : Save) : Bool :=
  match s.sequencer with
  | .idle => false
  | .formatDraining _ => false
  | .formatting _ writes => !writes.isEmpty
  | .seedDraining _ => false
  | .copying k index _ => decide (index < s.slotWords k)
  | .commitDraining _ _ => false
  | .scanning _ length index _ => decide (index < length / 2)
  | .guarding _ _ _ => false
  | .intent _ _ _ writes => !writes.isEmpty
  | .switching _ _ _ writes => !writes.isEmpty
  | .closing _ _ writes => !writes.isEmpty
  | .verifying k index _ => decide (index < (s.slot k).record.dataWords)
  | .recovering stage => stage.wants

/-- The first of the writes still to make is made. -/
def Ef24.writeNext (u : Ef24) (writes : List (Nat × Word)) (q : List (Nat × Word) → Sequencer) : Ef24 :=
  match writes with
  | [] => u
  | (a, w) :: rest => { u with sram := u.sram.write a w }.sequence (q rest)

/-- One access of COPYING: read the live word, then write it; for an EMPTY slot write 0000h (R115). -/
def Ef24.copyNext (u : Ef24) (k index : Nat) (held : Option Word) : Ef24 :=
  if (u.save.slot k).record.valid then
    match held with
    | none => u.sequence (.copying k index (some (u.sram.read (u.save.liveBase k + index))))
    | some w => { u with sram := u.sram.write (u.save.stagingBase k + index) w }.sequence (.copying k (index + 1) none)
  else { u with sram := u.sram.write (u.save.stagingBase k + index) 0 }.sequence (.copying k (index + 1) none)

/-- A sequencer access completes, and the step moves to its next word (R111). -/
def Ef24.sequencerStep (u : Ef24) : Ef24 :=
  match u.save.sequencer with
  | .idle => u
  | .formatDraining _ => u
  | .formatting sizes writes => u.writeNext writes (.formatting sizes)
  | .seedDraining _ => u
  | .copying k index held => u.copyNext k index held
  | .commitDraining _ _ => u
  | .scanning k length index crc =>
    u.sequence (.scanning k length (index + 1) (crcWord crc (u.sram.read (u.save.stagingBase k + index))))
  | .guarding _ _ _ => u
  | .intent commit k r writes => u.writeNext writes (.intent commit k r)
  | .switching commit k r writes => u.writeNext writes (.switching commit k r)
  | .closing commit k writes => u.writeNext writes (.closing commit k)
  | .verifying k index crc =>
    u.sequence (.verifying k (index + 1) (crcWord crc (u.sram.read (u.save.liveBase k + index))))
  | .recovering stage => u.recoveryAccess stage

/-- The access leaves the port free (R110). -/
def Ef24.sequencerAccess (u : Ef24) : Ef24 := (if u.save.wants then u.sequencerStep else u).takeSramPort

/-! ## The ends of the steps (R114 to R121, R128) -/

/-- DRAINING may be left: no entry of the slot, or for a format no entry at all (R114, R115, R117). -/
def Save.drainingDue (s : Save) : Bool :=
  match s.sequencer with
  | .formatDraining _ => s.buffer.isEmpty
  | .seedDraining k => !s.holdsEntryOf k
  | .commitDraining k _ => !s.holdsEntryOf k
  | _ => false

/-- DRAINING is left. -/
def Ef24.leaveDraining (u : Ef24) : Ef24 :=
  match u.save.sequencer with
  | .formatDraining sizes =>
    u.sequence (.formatting sizes (formatWrites sizes (Config.sramCodeTaken u.sramCode)))
  | .seedDraining k => u.sequence (.copying k 0 none)
  | .commitDraining k length => u.sequence (.scanning k length 0 crcStart)
  | _ => u

/-- The INTENT step begins: the records are built and the writes of the intent record wait (R118, R120). -/
def Ef24.beginIntent (u : Ef24) (commit : Bool) (k : Nat) (new : SlotRecord) : Ef24 :=
  u.sequence (.intent commit k new (intentRecordWrites k new (u.save.slot k).record))

/-- The stamp's calendar instant, absent while Calendar Valid is false (R155). -/
def Calendar.stampInstant (c : Calendar) : Option (BitVec 32) :=
  if c.valid then some (BitVec.ofNat 32 c.now.instant) else none

/-- The new slot record of a commit, stamped now (R118, R155). -/
def Ef24.commitRecord (u : Ef24) (k length : Nat) (crc : Word) : SlotRecord :=
  { valid := true
    live := (u.save.slot k).stagingImage
    generation := (u.save.slot k).record.generation + 1
    dataLength := word length
    crc := crc
    gameDay := BitVec.ofNat 32 u.calendar.gameDay
    playSeconds := BitVec.ofNat 32 u.calendar.timerSeconds
    instant := u.calendar.stampInstant }

/-- SCANNING has read its last word, or GUARDING waits and Heavy Load is clear (R117). -/
def Ef24.scanDue (u : Ef24) : Bool :=
  match u.save.sequencer with
  | .scanning _ length index _ => decide (length / 2 ≤ index)
  | .guarding _ _ _ => !u.rumble.heavyLoad
  | _ => false

/-- GUARDING is left for INTENT when Heavy Load is clear, and waits otherwise (R117). -/
def Ef24.guard (u : Ef24) (k length : Nat) (crc : Word) : Ef24 :=
  if u.rumble.heavyLoad then u.sequence (.guarding k length crc) else u.beginIntent true k (u.commitRecord k length crc)

/-- SCANNING is left for GUARDING, which is left as soon as Heavy Load is clear (R117). -/
def Ef24.leaveScanning (u : Ef24) : Ef24 :=
  match u.save.sequencer with
  | .scanning k length _ crc => u.guard k length crc
  | .guarding k length crc => u.guard k length crc
  | _ => u

/-- The intent record's check word has been written. -/
def Save.intentDue (s : Save) : Bool :=
  match s.sequencer with
  | .intent _ _ _ writes => writes.isEmpty
  | _ => false

/-- The view a slot's SAVE_STAGE windows show in INTENT_WRITTEN (R108). -/
def intentView (commit : Bool) (new : SlotRecord) : Image := if commit then new.live.other else .a

/-- INTENT ends: switch phase INTENT_WRITTEN, and SWITCHING begins (R118). -/
def Ef24.finishIntent (u : Ef24) : Ef24 :=
  match u.save.sequencer with
  | .intent commit k r _ =>
    (u.onSave (fun s => s.onSlot k (fun x => { x with phase := .intentWritten (intentView commit r) }))).sequence
      (.switching commit k r (slotRecordWrites k r))
  | _ => u

/-- The slot record's check word has been written. -/
def Save.switchingDue (s : Save) : Bool :=
  match s.sequencer with
  | .switching _ _ _ writes => writes.isEmpty
  | _ => false

/-- SWITCHING ends: the core copy takes the new record, and CLOSING begins (R118). -/
def Ef24.finishSwitching (u : Ef24) : Ef24 :=
  match u.save.sequencer with
  | .switching commit k r _ =>
    (u.onSave (fun s => s.onSlot k (fun x => { x with record := r, phase := .none }))).sequence
      (.closing commit k intentClear)
  | _ => u

/-- The intent record has been cleared. -/
def Save.closingDue (s : Save) : Bool :=
  match s.sequencer with
  | .closing _ _ writes => writes.isEmpty
  | _ => false

/-- CLOSING ends: for a commit the Guard is lowered and Bad cleared; CMD_DONE OK (R118, R120). -/
def Ef24.finishClosing (u : Ef24) : Ef24 :=
  match u.save.sequencer with
  | .closing commit k _ =>
    if commit then (((u.setGuard false).setBad k false).sequence .idle).postDone .slotCommit .ok k
    else (u.sequence .idle).postDone .slotDiscard .ok k
  | _ => u

/-- The last staging word has been written. -/
def Save.seedDue (s : Save) : Bool :=
  match s.sequencer with
  | .copying k index _ => decide (s.slotWords k ≤ index)
  | _ => false

/-- The seed ends: Tainted cleared, CMD_DONE OK (R115). -/
def Ef24.finishSeed (u : Ef24) : Ef24 :=
  match u.save.sequencer with
  | .copying k _ _ => ((u.setTainted k false).sequence .idle).postDone .slotSeed .ok k
  | _ => u

/-- The new volume record's check word has been written. -/
def Save.formatDue (s : Save) : Bool :=
  match s.sequencer with
  | .formatting _ writes => writes.isEmpty
  | _ => false

/-- Every slot's copy becomes the EMPTY record of generation 0 (R114). -/
def Save.emptyRecords (s : Save) : Save :=
  (upTo 8).foldl (fun t k => t.onSlot k (fun x => { x with record := SlotRecord.empty 0, phase := .none })) s

/-- The format ends: the copies take the new volume, READY, CMD_DONE OK (R114). -/
def Ef24.finishFormat (u : Ef24) : Ef24 :=
  match u.save.sequencer with
  | .formatting sizes _ =>
    (u.onSave (fun s => { s.emptyRecords with
      slotCount := sizes.length, sizes := sizes, volume := .ready, sequencer := .idle })).postDone .saveFormat .ok 0
  | _ => u

/-- The verify's last word has been read. -/
def Save.verifyDue (s : Save) : Bool :=
  match s.sequencer with
  | .verifying k index _ => decide ((s.slot k).record.dataWords ≤ index)
  | _ => false

/-- The verify ends: Bad cleared and OK on a match, Bad set and CRC_BAD on a mismatch (R121). -/
def Ef24.finishVerify (u : Ef24) : Ef24 :=
  match u.save.sequencer with
  | .verifying k _ crc =>
    if crc = (u.save.slot k).record.crc then ((u.setBad k false).sequence .idle).postDone .slotVerify .ok k
    else ((u.setBad k true).sequence .idle).postDone .slotVerify .crcBad k
  | _ => u

/-- The last VALID slot has been verified. -/
def Save.recoveryDue (s : Save) : Bool := decide (s.sequencer = .recovering .finished)

/-- Recovery ends: the volume is READY (R128). -/
def Ef24.finishRecovery (u : Ef24) : Ef24 := u.onSave (fun s => { s with volume := .ready, sequencer := .idle })

/-! ## The gate (R123, R136) -/

/-- The save gate closes: the access is abandoned, buffer and flag list emptied, the sequencer stopped where it stands, the
Guard lowered (log 35). -/
def Ef24.closeGate (u : Ef24) : Ef24 :=
  u.onSave (fun s => { s with buffer := [], flags := [], port := none, guard := false })

end Sys2Proof.Machine
end

