-- ==== Sys2Proof/Machine/Actions.lean ====
section
/-! DEFINITION. The Action Dispatcher (Chapter 4): the walk of a chain, the operand checks, the requests handed on. -/

namespace Sys2Proof.Machine

/-- The codes of a dispatch's source (section 13.3). -/
def DispatchSource.code : DispatchSource → Nat
  | .trigger => 0
  | .schedule => 1
  | .command => 2

/-- The causes of ACTION_FAULT (R58). -/
inductive ActionCause where
  | invalid
  | operand
  | chain
  deriving DecidableEq, Repr

/-- The codes of the causes (section 13.3). -/
def ActionCause.code : ActionCause → Nat
  | .invalid => 0
  | .operand => 1
  | .chain => 2

/-- ACTION_FAULT: the detail carries the cause, the source and the dispatch's first action (R58). -/
def Ef24.actionFault (u : Ef24) (cause : ActionCause) (index : Nat) (source : DispatchSource) (first : Nat) : Ef24 :=
  u.post .actionFault index (Field.put cause.code 14 2 + Field.put source.code 12 2 + Field.put first 0 6)

/-- A record of the Action Table. -/
def Ef24.action (u : Ef24) (n : Nat) : ActionEntry := Table.get u.actions n ActionEntry.invalid

/-- Whether the operands an action's kind uses fault (R55). A FLAG_CLEAR_RANGE whose operand B is none faults: none is FFFFh, and
the sum is above 4096 (the model's choice: log 40). -/
def ActionEntry.operandsFault (e : ActionEntry) : ActionKind → Bool
  | .playCue => decide (128 ≤ e.operandA.toNat)
  | .stopCue => decide (128 ≤ e.operandA.toNat)
  | .rumble => decide (32 ≤ e.operandA.toNat)
  | .flagSet => decide (4096 ≤ e.operandA.toNat)
  | .flagClear => decide (4096 ≤ e.operandA.toNat)
  | .flagClearRange =>
    decide (4096 ≤ e.operandA.toNat) || decide (e.operandB = 0) || decide (4096 < e.operandA.toNat + e.operandB.toNat)
  | .silence => false
  | .rumbleCut => false
  | .post => false
  | .invalid => false

/-- A RUMBLE action's submission, at its effective priority (R56, R89). -/
def Ef24.rumbleAction (u : Ef24) (pattern : Nat) (priorityRequest : Option Nat) : Ef24 :=
  u.submitRumble
    (u.rumble.form pattern (raised (u.rumble.header pattern).priority.toNat priorityRequest) .action none)

/-- An action's request is handed to its owner (R50, R57, R59). A fetch request that a sound request raises or withdraws
reaches the ROM port at that moment, before the chain goes on (R26, R27). -/
def Ef24.request (u : Ef24) (n : Nat) (e : ActionEntry) : ActionKind → Ef24
  | .playCue => (u.playCueAction e.operandA.toNat (optionalWord e.operandB)).updateRomPort
  | .stopCue => (u.stopCue e.operandA.toNat).updateRomPort
  | .silence => u.silence.updateRomPort
  | .rumble => u.rumbleAction e.operandA.toNat (optionalWord e.operandB)
  | .rumbleCut => u.removeRumble .cut
  | .flagSet => u.flagAction n .set e.operandA.toNat 1
  | .flagClear => u.flagAction n .clear e.operandA.toNat 1
  | .flagClearRange => u.flagAction n .clearRange e.operandA.toNat e.operandB.toNat
  | .post => u.post .user n e.operandA.toNat
  | .invalid => u

/-- An action of a kind other than INVALID is visited: a fault or a request (R55). -/
def Ef24.visit (u : Ef24) (source : DispatchSource) (first n : Nat) (e : ActionEntry) (kind : ActionKind) : Ef24 :=
  if e.operandsFault kind then u.actionFault .operand n source first else u.request n e kind

/-- The walk of a chain with a number of visits left (R54). -/
def Ef24.walk (source : DispatchSource) (first : Nat) : Nat → Nat → Ef24 → Ef24
  | 0, n, u => u.actionFault .chain n source first
  | left + 1, n, u =>
    match (u.action n).kindNamed with
    | none => u.actionFault .invalid n source first
    | some .invalid => u.actionFault .invalid n source first
    | some kind =>
      match optionalWord (u.action n).next with
      | none => u.visit source first n (u.action n) kind
      | some next => Ef24.walk source first left next (u.visit source first n (u.action n) kind)

/-- The most actions a dispatch visits (R54). -/
def chainLimit : Nat := 4

/-- A dispatch, taken whole (R53). -/
def Ef24.dispatch (u : Ef24) (source : DispatchSource) (first : Nat) : Ef24 := Ef24.walk source first chainLimit first u

end Sys2Proof.Machine
end

