-- ==== Sys2Proof/Machine/Schedule.lean ====
section
/-! DEFINITION. The Day Schedule (Chapter 10): which entries fire on each signal, what a firing does, delivery and reports. -/

namespace Sys2Proof.Machine

/-- A schedule entry. -/
def Ef24.entry (u : Ef24) (i : Nat) : ScheduleEntry := Table.get u.schedule i ScheduleEntry.unused

/-- The chip with one schedule entry changed. -/
def Ef24.onEntry (u : Ef24) (i : Nat) (f : ScheduleEntry → ScheduleEntry) : Ef24 :=
  { u with schedule := Table.put u.schedule i (f (u.entry i)) }

/-- An entry becomes Pending (R163). -/
def Ef24.setPending (u : Ef24) (i : Nat) (b : Bool) : Ef24 := u.onEntry i (fun e => { e with pending := b })

/-- Firing an ON_GAME_DAY entry sets its Fired mark (R162). -/
def ScheduleEntry.afterFiring (e : ScheduleEntry) : ScheduleEntry :=
  if e.kindNamed = some .onGameDay then { e with fired := true } else e

/-- SCHEDULE detail WAKE for an entry whose Wake is yes (R164). -/
def Ef24.postWake (u : Ef24) (i : Nat) : Ef24 := if (u.entry i).wake then u.post .schedule i 0 else u

/-- A firing, by the chip state that stands (R163). -/
def Ef24.fire (u : Ef24) (i : Nat) : Ef24 :=
  let v := u.onEntry i ScheduleEntry.afterFiring
  match v.chip with
  | some .run => v.dispatch .schedule (v.entry i).action.toNat
  | some .enteringSleep => (v.setPending i true).postWake i
  | some .asleep => (v.setPending i true).postWake i
  | some .halted => v.setPending i true
  | none => v.setPending i true

/-- The entries' numbers, in ascending order. -/
def entryNumbers : List Nat := upTo 16

/-- The firings of one signal: every entry is judged as it stands, then the firings are handled in ascending order (R160). -/
def Ef24.fireAll (u : Ef24) (fires : ScheduleEntry → Bool) : Ef24 :=
  (entryNumbers.filter (fun i => fires (u.entry i))).foldl Ef24.fire u

/-- Whether an entry fires on a rollover told with a counter value (R162). -/
def ScheduleEntry.firesOnRollover (e : ScheduleEntry) (gameDay : Nat) : Bool :=
  e.enabled &&
    match e.kindNamed with
    | some .onRollover => true
    | some .onGameDay => !e.fired && decide (e.target ≤ gameDay)
    | some .atTime => false
    | some .unused => false
    | none => false

/-- Whether an entry fires on a minute boundary (R161). -/
def ScheduleEntry.firesAt (e : ScheduleEntry) (hour minute weekday : Nat) : Bool :=
  e.enabled &&
    match e.kindNamed with
    | some .atTime => decide (e.hour = hour) && decide (e.minute = minute) && e.onWeekday weekday
    | some .onRollover => false
    | some .onGameDay => false
    | some .unused => false
    | none => false

/-- The Day Schedule is told of one rollover and the counter's value (R142, R147), taken as one signal: ON_ROLLOVER and
ON_GAME_DAY entries fire in one entry order (R160; log 42). -/
def Ef24.tellRollover (u : Ef24) : Ef24 := u.fireAll (fun e => e.firesOnRollover u.calendar.gameDay)

/-- The Day Schedule is handed a minute boundary (R154). -/
def Ef24.tellMinute (u : Ef24) : Ef24 :=
  u.fireAll (fun e => e.firesAt u.calendar.now.hour u.calendar.now.minute u.calendar.now.weekday)

/-- An entry's Pending firing is delivered: its dispatch, then the mark cleared (R165). -/
def Ef24.deliver (u : Ef24) (i : Nat) : Ef24 :=
  if (u.entry i).pending then (u.dispatch .schedule (u.entry i).action.toNat).setPending i false else u

/-- The delivery at WAKE, whole, in ascending entry order (R165). -/
def Ef24.deliverAll (u : Ef24) : Ef24 := entryNumbers.foldl Ef24.deliver u

/-- The Pending entries, in ascending order. -/
def Ef24.pendingEntries (u : Ef24) : List Nat := entryNumbers.filter (fun i => (u.entry i).pending)

/-- Every Pending mark is cleared (R166). -/
def Ef24.clearPending (u : Ef24) : Ef24 := entryNumbers.foldl (fun v i => v.setPending i false) u

end Sys2Proof.Machine
end

