-- ==== Sys2Proof/Machine/Calendar.lean ====
section
/-! DEFINITION. The Calendar Unit (Chapter 9): a second, a rollover, a catch-up, setting the clock, a hundredth. -/

namespace Sys2Proof.Machine

/-- The chip with its Calendar Unit changed. -/
def Ef24.onCalendar (u : Ef24) (f : Calendar → Calendar) : Ef24 := { u with calendar := f u.calendar }

/-- The highest Game Day Counter value (R143). -/
def lastGameDay : Nat := 16777215

/-- The Game Day Counter raised by a count, held at its highest value (R143). -/
def Calendar.addDays (c : Calendar) (n : Nat) : Calendar := { c with gameDay := min lastGameDay (c.gameDay + n) }

/-- A counted rollover is posted while the core runs, and kept in Unreported Rollovers otherwise (R142, R144). -/
def Ef24.noteRollover (u : Ef24) : Ef24 :=
  if u.coreRunning then u.post .dayRollover 0 1
  else u.onCalendar (fun c => { c with unreported := min 65535 (c.unreported + 1) })

/-- A rollover counted by a second: the counter, the post, the Day Schedule (R142). -/
def Ef24.countRollover (u : Ef24) : Ef24 := ((u.onCalendar (·.addDays 1)).noteRollover).tellRollover

/-- A second counted in TRUE with the calendar valid is examined for a rollover and then for a minute boundary (R141, R142, R154). -/
def Ef24.examineSecond (u : Ef24) : Ef24 :=
  let v := if u.calendar.now.isRollover u.calendar.dayStart then u.countRollover else u
  if u.calendar.now.second = 0 then v.tellMinute else v

/-- A second in TRUE: the high-water instant rises with the calendar (R141). -/
def Ef24.secondTrue (u : Ef24) : Ef24 :=
  let v := u.onCalendar (fun c => { c with now := c.now.next, high := c.now.next.instant })
  if v.calendar.valid then v.examineSecond else v

/-- CLOCK_CAUGHT_UP by counting, while the core runs (R141). -/
def Ef24.noteCaughtUp (u : Ef24) : Ef24 := if u.coreRunning then u.post .clockCaughtUp 0 0 else u

/-- A second in BEHIND: the calendar advances, and may catch up (R141). -/
def Ef24.secondBehind (u : Ef24) : Ef24 :=
  let v := u.onCalendar (fun c => { c with now := c.now.next })
  if v.calendar.now.instant = v.calendar.high then (v.onCalendar (fun c => { c with behind := false })).noteCaughtUp else v

/-- A second counted from the crystal; the calendar holds at its last reading (R139, R141). -/
def Ef24.second (u : Ef24) : Ef24 :=
  if u.calendar.now = DateTime.last then u
  else if u.calendar.behind then u.secondBehind
  else u.secondTrue

/-! ## Setting the clock (R146 to R148) -/

/-- The first set: calendar and high-water instant become T; nothing is counted or posted (R146). -/
def Ef24.setFirst (u : Ef24) (t : DateTime) : Ef24 :=
  u.onCalendar (fun c => { c with now := t, high := t.instant, behind := false, valid := true })

/-- The rollovers a forward set skips over (R147). -/
def Calendar.skipped (c : Calendar) (t : DateTime) : Nat := rolloversBetween c.dayStart c.high t.instant

/-- The applied count of a forward set: the skipped rollovers, or the Advance Cap if it is less; 255 is no cap (R147). -/
def Calendar.applied (c : Calendar) (t : DateTime) : Nat :=
  if c.advanceCap = 255 then c.skipped t else min (c.skipped t) c.advanceCap

/-- CLOCK_CAUGHT_UP by CLOCK SET, if the clock was behind (R147, step 2). -/
def Ef24.noteSetCaughtUp (u : Ef24) (wasBehind : Bool) : Ef24 := if wasBehind then u.post .clockCaughtUp 1 0 else u

/-- The applied count raises the counter, is posted, and is told to the Day Schedule as one rollover (R147, steps 3 and 4). -/
def Ef24.applyDays (u : Ef24) (applied skipped : Nat) : Ef24 :=
  if 1 ≤ applied then
    ((u.onCalendar (·.addDays applied)).post .dayRollover (if applied = skipped then 1 else 3) applied).tellRollover
  else u

/-- A forward set (R147). -/
def Ef24.setForward (u : Ef24) (t : DateTime) : Ef24 :=
  ((u.onCalendar (fun c => { c with now := t, high := t.instant, behind := false })).noteSetCaughtUp
    u.calendar.behind).applyDays (u.calendar.applied t) (u.calendar.skipped t)

/-- The minutes from a set time to the high-water instant, held at 65,535 (R148). -/
def Calendar.minutesBehind (c : Calendar) (t : DateTime) : Nat := min 65535 ((c.high - t.instant) / 60)

/-- A backward set (R148). -/
def Ef24.setBackward (u : Ef24) (t : DateTime) : Ef24 :=
  (u.onCalendar (fun c => { c with now := t, behind := true })).post .clockBehind 0 (u.calendar.minutesBehind t)

/-! ## The Play Timer (R152) -/

/-- A hundredth added, with its carry; the timer holds at its last value. -/
def Calendar.addHundredth (c : Calendar) : Calendar :=
  if c.timerHundredths < 99 then { c with timerHundredths := c.timerHundredths + 1 }
  else if c.timerSeconds < 4294967295 then { c with timerHundredths := 0, timerSeconds := c.timerSeconds + 1 }
  else c

/-- A hundredth of a second reaches the Play Timer, which counts it while running and in RUN only (R152). -/
def Ef24.hundredth (u : Ef24) : Ef24 :=
  if u.calendar.timerRunning ∧ u.chip = some .run then u.onCalendar Calendar.addHundredth else u

end Sys2Proof.Machine
end

