-- ==== Sys2Proof/Machine/Loader.lean ====
section
/-! DEFINITION. The Table Loader (Chapter 3) and the owners' load checks and swaps (R13 to R16, R51, R52, R63, R64, R87, R88,
R159). -/

namespace Sys2Proof.Machine

/-! ## The load record (R42 to R44) -/

/-- The image words a load still needs. -/
def Load.missing (l : Load) : Nat := l.needed - l.staged.length

/-- Image words received, in order; with the last of them the load enters CHECKING (R43, R44). -/
def Load.receive (l : Load) (ws : List Word) : Load :=
  let staged := l.staged ++ ws.take l.missing
  { l with staged := staged, phase := if l.needed ≤ staged.length then .checking else l.phase }

/-- The entry images of a load, in entry order. -/
def Load.images (l : Load) : List (List Word) :=
  (upTo l.count).map (fun k => (l.staged.drop (k * l.table.entrySize)).take l.table.entrySize)

/-! ## The owners' checks: the entries that offend -/

/-- Whether an entry's window holds a block (R3). -/
def WindowEntry.holdsBlock (e : WindowEntry) (block : Nat) : Bool :=
  e.isValid && decide (e.base.toNat ≤ block ∧ block < e.base.toNat + e.span)

/-- Whether two entries' windows share a block (R14). -/
def WindowEntry.overlaps (e f : WindowEntry) : Bool :=
  e.isValid && f.isValid && decide (e.base.toNat < f.base.toNat + f.span ∧ f.base.toNat < e.base.toNat + e.span)

/-- Whether an entry is a valid CONTROL entry. -/
def WindowEntry.isControl (e : WindowEntry) : Bool := e.kindNamed == some .control

/-- Whether an entry fails the conditions of R13. -/
def Ef24.windowFails (u : Ef24) (e : WindowEntry) : Bool :=
  let ranges := decide (256 < e.base.toNat + e.span)
  let notReady := u.save.volume != .ready
  match e.kindNamed with
  | none => true
  | some .unused => false
  | some .rom => ranges || decide (Config.romPages u.romCode < e.romPage + e.bankCount * e.span)
  | some .saveStage => ranges || notReady || decide (u.save.slotCount ≤ e.slot)
  | some .saveLive => ranges || notReady || decide (u.save.slotCount ≤ e.slot)
  | some .flags => ranges || notReady
  | some .trigger =>
    ranges || decide (e.actionCount = 0) || decide (64 < e.actionCount) || decide (64 < e.actionBase + e.actionCount)
  | some .control => ranges

/-- Whether entry i of a resulting Window Table offends (R14). -/
def Ef24.windowOffends (u : Ef24) (t : Vector WindowEntry 16) (first i : Nat) : Bool :=
  let e := Table.get t i WindowEntry.unused
  let lower := (upTo i).map (fun j => Table.get t j WindowEntry.unused)
  u.windowFails e || lower.any e.overlaps || (e.isControl && lower.any (·.isControl)) ||
    (decide (i = first) && !t.toList.any (·.isControl))

/-- Whether an action offends (R51). -/
def ActionEntry.offends (e : ActionEntry) : Bool :=
  let priority := optionalWord e.operandB
  let next := optionalWord e.next
  match e.kindNamed with
  | none => true
  | some .invalid => false
  | some .playCue => (priority.any (fun p => decide (7 < p))) || (next.any (fun n => decide (63 < n)))
  | some .rumble => (priority.any (fun p => decide (7 < p))) || (next.any (fun n => decide (63 < n)))
  | some .stopCue => next.any (fun n => decide (63 < n))
  | some .silence => next.any (fun n => decide (63 < n))
  | some .rumbleCut => next.any (fun n => decide (63 < n))
  | some .flagSet => next.any (fun n => decide (63 < n))
  | some .flagClear => next.any (fun n => decide (63 < n))
  | some .flagClearRange => next.any (fun n => decide (63 < n))
  | some .post => next.any (fun n => decide (63 < n))

/-- Whether a cue offends for a ROM of a capacity in words (R63). -/
def CueEntry.offends (e : CueEntry) (romWords : Nat) : Bool :=
  let linkedBad := e.linkedPattern.any (fun p => decide (31 < p))
  match e.formatNamed with
  | none => true
  | some .tone =>
    !e.isEmpty && (decide (65535 < e.length.toNat) || decide (e.rate.toNat < 20) || decide (8000 < e.rate.toNat) ||
      !e.loopNone || linkedBad)
  | some _ =>
    !e.isEmpty && (decide (e.rate.toNat < 1000) || decide (32768 < e.rate.toNat) ||
      (!e.loopNone && decide (e.length.toNat ≤ e.loopStart.toNat)) || decide (romWords < e.endWord) || linkedBad)

/-- Whether a pattern header offends (R87). -/
def Header.offends (h : Header) : Bool :=
  decide (64 < h.stepCount.toNat) ||
    (decide (1 ≤ h.stepCount.toNat) && decide (512 < h.firstStep.toNat + h.stepCount.toNat))

/-- Whether a step offends (R87); its strength field holds no more than 15. -/
def PatternStep.offends (s : PatternStep) : Bool := s.kindNamed.isNone

/-- Whether a schedule entry offends (R159). -/
def ScheduleEntry.offends (e : ScheduleEntry) : Bool :=
  match e.kindNamed with
  | none => true
  | some .unused => false
  | some .atTime => decide (63 < e.action.toNat) || decide (23 < e.hour) || decide (59 < e.minute)
  | some .onRollover => decide (63 < e.action.toNat)
  | some .onGameDay => decide (63 < e.action.toNat)

/-- The lowest number below a bound that offends (R45). -/
def lowestOffender (n : Nat) (offends : Nat → Bool) : Option Nat := (upTo n).find? offends

/-- The Window Table that would result from a load; the loaded entries have current bank 0 (R16). -/
def Ef24.windowsAfter (u : Ef24) (l : Load) : Vector WindowEntry 16 :=
  Table.putRange u.windows l.first (l.images.map WindowEntry.ofImage)

/-- The Action Table that would result. -/
def Ef24.actionsAfter (u : Ef24) (l : Load) : Vector ActionEntry 64 :=
  Table.putRange u.actions l.first (l.images.map ActionEntry.ofImage)

/-- The Cue Table that would result. -/
def Ef24.cuesAfter (u : Ef24) (l : Load) : Vector CueEntry 128 :=
  Table.putRange u.sound.cues l.first (l.images.map CueEntry.ofImage)

/-- The pattern headers that would result. -/
def Ef24.headersAfter (u : Ef24) (l : Load) : Vector Header 32 :=
  Table.putRange u.rumble.headers l.first (l.images.map Header.ofImage)

/-- The Step Store that would result. -/
def Ef24.stepsAfter (u : Ef24) (l : Load) : Vector PatternStep 512 :=
  Table.putRange u.rumble.steps l.first (l.images.map PatternStep.ofImage)

/-- The schedule that would result; the loaded entries' marks are clear (R159). -/
def Ef24.scheduleAfter (u : Ef24) (l : Load) : Vector ScheduleEntry 16 :=
  Table.putRange u.schedule l.first (l.images.map ScheduleEntry.ofImage)

/-- The lowest-numbered offending entry of the table that would result (R45). -/
def Ef24.offender (u : Ef24) (l : Load) : Option Nat :=
  match l.table with
  | .windows => lowestOffender 16 (u.windowOffends (u.windowsAfter l) l.first)
  | .actions => lowestOffender 64 (fun i => (Table.get (u.actionsAfter l) i ActionEntry.invalid).offends)
  | .cues =>
    lowestOffender 128 (fun i => (Table.get (u.cuesAfter l) i CueEntry.empty).offends (Config.romWords u.romCode))
  | .patterns => lowestOffender 32 (fun i => (Table.get (u.headersAfter l) i Header.empty).offends)
  | .steps => lowestOffender 512 (fun i => (Table.get (u.stepsAfter l) i PatternStep.empty).offends)
  | .schedule => lowestOffender 16 (fun i => (Table.get (u.scheduleAfter l) i ScheduleEntry.unused).offends)

/-- The swap, whole, with its effects: a PATTERNS or STEPS swap removes every rumble request (R15, R52, R64, R88, R159). -/
def Ef24.swap (u : Ef24) (l : Load) : Ef24 :=
  match l.table with
  | .windows => { u with windows := u.windowsAfter l }
  | .actions => { u with actions := u.actionsAfter l }
  | .cues => { u with sound := { u.sound with cues := u.cuesAfter l } }
  | .patterns => { u with rumble := { u.rumble with headers := u.headersAfter l } }.removeRumble .table
  | .steps => { u with rumble := { u.rumble with steps := u.stepsAfter l } }.removeRumble .table
  | .schedule => { u with schedule := u.scheduleAfter l }

/-- A load ends: CMD_DONE, the Staging Area discarded, the Loader IDLE (R45, R46). -/
def Ef24.endLoad (u : Ef24) (status : Status) (item : Nat) : Ef24 :=
  { u with loader := none }.postDone .loadTable status item

/-- The owner checks a complete image, and swaps it in or refuses it (R45). -/
def Ef24.checkLoad (u : Ef24) : Ef24 :=
  match u.loader with
  | some l =>
    if l.phase = .checking then
      match u.offender l with
      | some i => u.endLoad .refusedEntry i
      | none => (u.swap l).endLoad .ok 0
    else u
  | none => u

/-- Whether a load is in RECEIVING or FETCHING. -/
def Ef24.loadOpen (u : Ef24) : Bool := u.loader.any (fun l => l.phase != .checking)

/-- A load in RECEIVING or FETCHING ends ABORTED; any other is left (R46, R47). -/
def Ef24.abortLoad (u : Ef24) : Ef24 := if u.loadOpen then u.endLoad .aborted 0 else u

/-- A DATA write: the next image word of a load in RECEIVING, else lost with the protocol-error flag set (R43). -/
def Ef24.dataWord (u : Ef24) (w : Word) : Ef24 :=
  match u.loader with
  | some l =>
    if l.phase = .receiving then { u with loader := some (l.receive [w]) }
    else { u with command := { u.command with protocolError := true } }
  | none => { u with command := { u.command with protocolError := true } }

/-! ## TABLE READ (R48) -/

/-- The image of an entry of the table in force. -/
def Ef24.entryImage (u : Ef24) (t : TableId) (i : Nat) : List Word :=
  match t with
  | .windows => (Table.get u.windows i WindowEntry.unused).image
  | .actions => (u.action i).image
  | .cues => (u.sound.cue i).image
  | .patterns => (u.rumble.header i).image
  | .steps => (Table.get u.rumble.steps i PatternStep.empty).image
  | .schedule => (u.entry i).image

/-- How many of a count of entries fit whole in 31 result words (R48). -/
def TableId.fitting (t : TableId) (count : Nat) : Nat := min count (31 / t.entrySize)

/-- The images TABLE READ returns. -/
def Ef24.tableImages (u : Ef24) (t : TableId) (first count : Nat) : List Word :=
  (upTo (t.fitting count)).flatMap (fun k => u.entryImage t (first + k))

end Sys2Proof.Machine
end

