-- ==== Sys2Proof/Machine/Ports.lean ====
section
/-! DEFINITION. The two ports and what is brought up to date at the end of every step: the line fetches of the ROM port
(Chapter 2), the claims on the SRAM port (R110), the Drive Ceiling's effects (R97), Heavy Load at the Power Monitor (R98, R175)
and the hold timers that run (R174, R175, R184, R185) (log 11). -/

namespace Sys2Proof.Machine

/-! ## The ROM port (R19 to R31) -/

/-- The word a line fetch reads: FFFFh at or beyond the strapped capacity (R29). -/
def Ef24.lineWord (u : Ef24) (address : Nat) : Word :=
  if address < Config.romWords u.romCode then u.rom.read address else noneWord

/-- A line is handed over whole to its requester (R28). -/
def Ef24.handOver (u : Ef24) (r : Requester) (line : Nat) (words : List Word) : Ef24 :=
  match r with
  | .voice i => u.onVoice (fun j v => v.takeLine j line words) i
  | .loader => { u with loader := u.loader.map (fun l => l.receive words) }

/-- The eighth word has arrived: the port is IDLE, the line handed over or, with the orphan mark set, discarded (R28). -/
def Ef24.completeFetch (u : Ef24) (f : Fetch) : Ef24 :=
  let v := { u with romPort := .idle }
  if f.orphan then v else v.handOver f.requester f.line (f.words ++ [u.lineWord (f.line + f.words.length)])

/-- One word of a line fetch arrives; the eighth completes the fetch (R19, R28; log 33). -/
def Ef24.fetchWord (u : Ef24) : Ef24 :=
  match u.romPort with
  | .fetching f =>
    if f.words.length < 7 then
      { u with romPort := .fetching { f with words := f.words ++ [u.lineWord (f.line + f.words.length)] } }
    else u.completeFetch f
  | .idle => u
  | .console => u

/-- The eighth word of a line fetch arrives (R28). -/
def Ef24.fetchComplete (u : Ef24) : Ef24 :=
  match u.romPort with
  | .fetching f => if f.words.length < 7 then u else u.completeFetch f
  | .idle => u
  | .console => u

/-- A console ROM read takes the port; a line fetch in flight is abandoned, its words discarded (R20, R21). -/
def Ef24.takeRomPort (u : Ef24) : Ef24 := { u with romPort := .console }

/-- The console read has been served (R20). -/
def Ef24.freeRomPort (u : Ef24) : Ef24 := { u with romPort := .idle }

/-! ## The SRAM port (R110, R111) -/

/-- Whether a claim still has an access to make. -/
def Ef24.claimStands (u : Ef24) : Claim → Bool
  | .drain => u.gateOpen && !u.save.buffer.isEmpty
  | .flag => u.gateOpen && u.coreRunning && !u.save.flags.isEmpty
  | .sequencer => u.gateOpen && u.coreRunning && u.save.wants

/-- The claim that wins a free port: the buffer, then a flag operation, then the sequencer (R110). -/
def Ef24.winningClaim (u : Ef24) : Option Claim := [Claim.drain, Claim.flag, Claim.sequencer].find? u.claimStands

/-- The access in progress goes on, or the port is granted (R110; log 11). -/
def Ef24.grantSram (u : Ef24) : Ef24 :=
  match u.save.port with
  | some c => if u.claimStands c then u else u.onSave (fun s => { s with port := u.winningClaim })
  | none => u.onSave (fun s => { s with port := u.winningClaim })

/-! ## Supply thresholds and hold timers (R174, R175, R184, R185) -/

/-- The GOOD threshold, lower by 0.1 V while Heavy Load is asserted. -/
def Power.goodLevel (p : Power) : Nat := if p.heavyLoad then 2900 else 3000

/-- The FAILING threshold, lower by 0.1 V while Heavy Load is asserted. -/
def Power.failingLevel (p : Power) : Nat := if p.heavyLoad then 2700 else 2800

/-- Whether the condition of a transition holds in the current supply state (R174). -/
def Power.crosses (p : Power) : SupplyChange → Bool
  | .absentToRising => p.supply == .absent && decide (2000 < p.vcc)
  | .risingToAbsent => p.supply == .rising && decide (p.vcc < 1800)
  | .risingToGood => p.supply == .rising && decide (3000 ≤ p.vcc)
  | .goodToLow => p.supply == .good && decide (p.vcc < p.goodLevel)
  | .lowToGood => p.supply == .low && decide (p.goodLevel ≤ p.vcc)
  | .toFailing => p.supply.powers && decide (p.vcc < p.failingLevel)
  | .failingToAbsent => p.supply == .failing && decide (p.vcc < 1800)
  | .failingToGood => p.supply == .failing && decide (3000 ≤ p.vcc)

/-- Whether the backup domain has a source: VCC in GOOD and LOW, the cell otherwise (R184). -/
def Power.supplied (p : Power) : Bool := p.supply.powers || p.vbat.isSome

/-- Whether VBAT is below a level; with no cell fitted it is. -/
def Power.cellBelow (p : Power) (millivolts : Nat) : Bool := p.vbat.all (fun v => decide (v < millivolts))

/-- Whether a hold timer runs (R174, R184, R185). -/
def Power.holdRuns (p : Power) : Hold → Bool
  | .supply c => p.crosses c
  | .cellLow => p.supplied && p.retained && !p.coinLow && p.cellBelow 2500
  | .cellGood => p.supplied && p.retained && p.coinLow && !p.cellBelow 2600
  | .cellLost => p.retained && !p.supply.powers && p.vbat.isSome && p.cellBelow 1900

/-- Every hold there is, in one fixed order. -/
def allHolds : List Hold :=
  [.supply .absentToRising, .supply .risingToAbsent, .supply .risingToGood, .supply .goodToLow, .supply .lowToGood,
    .supply .toFailing, .supply .failingToAbsent, .supply .failingToGood, .cellLow, .cellGood, .cellLost]

/-- The hold timers that run. -/
def Power.updateHolds (p : Power) : Power := { p with holds := allHolds.filter p.holdRuns }

/-! ## The end of every step (log 11) -/

/-- The Drive follows the ceiling while the core runs (R97). -/
def Ef24.followCeiling (u : Ef24) : Ef24 :=
  if u.coreRunning then { u with rumble := u.rumble.follow u.ceiling } else u

/-- The Power Monitor is told Heavy Load, and the crossings are judged (R98, R174, R175). -/
def Ef24.judgeSupply (u : Ef24) : Ef24 :=
  { u with power := { u.power with heavyLoad := u.rumble.heavyLoad }.updateHolds }

/-- Everything that follows at once from a step: strengths, Heavy Load and hold timers, the ROM port, the SRAM port. -/
def Ef24.conclude (u : Ef24) : Ef24 := u.followCeiling.judgeSupply.updateRomPort.grantSram

end Sys2Proof.Machine
end

