-- ==== Sys2Proof/Machine/Power.lean ====
section
/-! DEFINITION. The Power Monitor and the backup domain (Chapter 12): core reset, halt, sleep, supply changes, /CRST, the coin
cell, retention. -/

namespace Sys2Proof.Machine

/-! ## Core reset (R178) -/

/-- Every core block takes its core reset values (R178). -/
def Ef24.coreValues (u : Ef24) : Ef24 :=
  { u with
    windows := defaultWindows
    romPort := .idle
    command := CommandUnit.reset
    loader := none
    actions := Vector.replicate 64 ActionEntry.invalid
    sound := Sound.reset
    rumble := Rumble.reset
    save := Save.reset
    events := EventUnit.reset }

/-- A core reset: the core blocks take their reset values, and the backup domain keeps its own but for the Play Timer's running
mark, which is cleared (R152, R178). -/
def Ef24.coreResetValues (u : Ef24) : Ef24 := { u.coreValues with calendar := { u.calendar with timerRunning := false } }

/-- The core is held in reset by a core reset: there is no chip state (R173, R178). -/
def Ef24.holdCore (u : Ef24) : Ef24 := { u.coreResetValues with chip := none }

/-- The core has lost its supply: there is no chip state, and the running mark is kept until the next core reset (R152, R173,
R178; log 27). -/
def Ef24.losePower (u : Ef24) : Ef24 := { u.coreValues with chip := none }

/-- SCHEDULE detail MISSED for every Pending entry, in ascending order (R166). -/
def Ef24.missedPosts (u : Ef24) : List Posting := u.pendingEntries.map (fun i => (.schedule, i, 1))

/-- A thing placed at a position of a list. -/
def placeAt {α : Type} (k : Nat) (x : α) (xs : List α) : List α := xs.take k ++ x :: xs.drop k

/-- The posts at the end of a core reset: the start-up DAY_ROLLOVER somewhere among the MISSED reports (R144, R166; log 13). -/
def Ef24.startupPosts (u : Ef24) : List Posting :=
  if 0 < u.calendar.unreported then
    placeAt (Config.startupOrder u.free % (u.missedPosts.length + 1)) (.dayRollover, 2, u.calendar.unreported) u.missedPosts
  else u.missedPosts

/-- What the start-up posts report is cleared (R144, R166). -/
def Ef24.clearReported (u : Ef24) : Ef24 := u.clearPending.onCalendar (fun c => { c with unreported := 0 })

/-- The core reset ends: RUN, the start-up posts, recovery begins (R126, R144, R166, R178). RECOVERY events come as recovery
posts them, and so after these (R172; log 13). -/
def Ef24.endReset (u : Ef24) : Ef24 :=
  let v := (({ u with chip := some .run }.recover (.volumeRecord [])).postAll u.startupPosts).clearReported
  { v with free := u.free + 1 }

/-! ## Halting (R177) -/

/-- The chip is HALTED, unless the core is held in reset: gate closed, fetch abandoned, motor outputs off, AOUT at midscale
(R31, R81, R100, R123, R177). -/
def Ef24.halt (u : Ef24) : Ef24 :=
  let v := u.closeGate
  match v.chip with
  | none => v
  | some _ =>
    { v with
      chip := some .halted
      romPort := .idle
      sound := { v.sound with aout := 0 }
      rumble := { v.rumble with motor := { v.rumble.motor with strength := 0 } } }

/-! ## Sleep (R180, R181) -/

/-- The Sound Engine, the Rumble Drive and the Table Loader react to ENTERING_SLEEP, in one of their six orders (R180; log 14). -/
def Ef24.reactToSleep (u : Ef24) : Nat → Ef24
  | 0 => (u.soundSleep.removeRumble .sleep).abortLoad
  | 1 => (u.soundSleep.abortLoad).removeRumble .sleep
  | 2 => ((u.removeRumble .sleep).soundSleep).abortLoad
  | 3 => ((u.removeRumble .sleep).abortLoad).soundSleep
  | 4 => (u.abortLoad.soundSleep).removeRumble .sleep
  | _ => (u.abortLoad.removeRumble .sleep).soundSleep

/-- The chip state becomes ENTERING_SLEEP, and each block reacts (R180). -/
def Ef24.enterSleep (u : Ef24) : Ef24 :=
  { u with chip := some .enteringSleep, free := u.free + 1 }.reactToSleep (Config.sleepOrder u.free % 6)

/-- The five conditions of ENTERING_SLEEP (R181). -/
def Ef24.sleepDue (u : Ef24) : Bool :=
  u.chip == some .enteringSleep && u.loader.isNone && u.save.sequencer == .idle && u.save.buffer.isEmpty &&
    u.rumble.motor.state == .stopped && !u.sound.anyInUse

/-- The chip state becomes ASLEEP, and CMD_DONE is posted (R181). A line fetch still in flight, which is orphaned, runs on: the
model's choice (log 44). -/
def Ef24.fallAsleep (u : Ef24) : Ef24 := { u with chip := some .asleep }.postDone .sleep .ok 0

/-! ## The backup domain (R184, R185) -/

/-- A backup reset (R185). -/
def Ef24.backupReset (u : Ef24) : Ef24 :=
  { u with
    calendar := Calendar.reset
    schedule := Vector.replicate 16 ScheduleEntry.unused
    power := { u.power with coinLow := false, retained := true } }

/-- The SRAM words that a loss of retention changes, within the strapped capacity (R185; log 12). -/
def Ef24.lostWords (u : Ef24) : List (Nat × Word) :=
  (Config.sramAfterLoss u.free).filter (fun c => decide (c.1 < 512 * Config.sramKiB u.sramCode))

/-- Retention is lost, and with it, it may be, SRAM contents (R185). -/
def Ef24.loseRetention (u : Ef24) : Ef24 :=
  { u with sram := u.sram.writeAll u.lostWords, power := { u.power with retained := false }, free := u.free + 1 }

/-- The domain has no source at all (R185; log 28). -/
def Ef24.sourceLost (u : Ef24) : Bool := u.power.retained && !u.power.supplied

/-- VBAT takes a level, or the cell is fitted or removed; a cell above 1.9 V resets a domain that has lost retention (R185). -/
def Ef24.setCell (u : Ef24) (millivolts : Option Nat) : Ef24 :=
  let v := { u with power := { u.power with vbat := millivolts } }
  if !v.power.retained && millivolts.any (fun m => decide (1900 < m)) then v.backupReset else v

/-- The coin-cell comparator's hold ends: the flag is set or cleared (R184). -/
def Ef24.changeCoinLow (u : Ef24) : Ef24 :=
  if u.power.holds.contains .cellLow then { u with power := { u.power with coinLow := true } }
  else if u.power.holds.contains .cellGood then { u with power := { u.power with coinLow := false } }
  else u

/-- Retention is lost when the 1.9 V hold ends or the domain has no source (R185). -/
def Ef24.retentionLoss (u : Ef24) : Ef24 :=
  if u.power.holds.contains .cellLost || u.sourceLost then u.loseRetention else u

/-! ## Supply changes (R174 to R178) -/

/-- The supply state moves. -/
def Ef24.setSupply (u : Ef24) (s : Supply) : Ef24 := { u with power := { u.power with supply := s } }

/-- SUPPLY at a change between GOOD and LOW, while the core runs (R174). -/
def Ef24.noteSupply (u : Ef24) : Ef24 :=
  if u.coreRunning then u.post .supply u.power.supply.code 0 else u

/-- The supply reaches GOOD from RISING or FAILING: a core reset, with the backup reset first if retention was lost (R178). -/
def Ef24.reachGood (u : Ef24) : Ef24 :=
  let v := u.setSupply .good
  let w := if v.power.retained then v else v.backupReset
  if w.crstLow then w.holdCore else w.holdCore.endReset

/-- A transition of R174 happens. -/
def Ef24.changeSupply (u : Ef24) : SupplyChange → Ef24
  | .absentToRising => u.setSupply .rising
  | .risingToAbsent => u.setSupply .absent
  | .risingToGood => u.reachGood
  | .goodToLow => (u.setSupply .low).noteSupply
  | .lowToGood => (u.setSupply .good).noteSupply
  | .toFailing => (u.setSupply .failing).halt
  | .failingToAbsent => (u.setSupply .absent).losePower
  | .failingToGood => u.reachGood

/-- A hold timer of R174 expires, if it runs. -/
def Ef24.supplyChange (u : Ef24) (c : SupplyChange) : Ef24 :=
  if u.power.holds.contains (.supply c) then u.changeSupply c else u

/-- VCC takes a level (R174). -/
def Ef24.setVcc (u : Ef24) (millivolts : Nat) : Ef24 := { u with power := { u.power with vcc := millivolts } }

/-! ## /CRST (R178, R179) -/

/-- The core is held in reset with the Posted Write Buffer still to drain (R125; log 26). -/
def Ef24.resetDraining (u : Ef24) : Ef24 :=
  { u.holdCore with save := { Save.reset with buffer := u.save.buffer } }

/-- /CRST falls (R125, R179). -/
def Ef24.assertReset (u : Ef24) : Ef24 :=
  let v := { u with crstLow := true }
  match v.chip with
  | none => v
  | some .halted => v.holdCore
  | some .run => v.resetDraining
  | some .enteringSleep => v.resetDraining
  | some .asleep => v.resetDraining

/-- /CRST rises: the core reset ends if the supply is GOOD or LOW, the buffer drained first (R125, R178, R179). -/
def Ef24.releaseReset (u : Ef24) : Ef24 :=
  let v := { u with crstLow := false }
  if v.chip.isNone && v.power.supply.powers then v.drainAll.endReset else v

end Sys2Proof.Machine
end

