-- ==== Sys2Proof/Machine/Settle.lean ====
section
/-! DEFINITION. The events that fall due by what the state holds, and their order before a command (log 9). Each does nothing
unless the core runs and its occasion is there (log 8). -/

namespace Sys2Proof.Machine

/-- An event of the core: it happens if the core runs and it is due, and its consequences follow. -/
def Ef24.event (u : Ef24) (due : Bool) (f : Ef24 → Ef24) : Ef24 := if u.coreRunning && due then (f u).conclude else u

/-! ## Rumble (R92, R94, R95) -/

/-- The kick ends, if due. -/
def Ef24.kickEnd (u : Ef24) : Ef24 := u.event u.rumble.kickEndDue (fun v => { v with rumble := v.rumble.endKick })

/-- The coasting motor is taken as stopped, if due. -/
def Ef24.coastStop (u : Ef24) : Ef24 := u.event u.rumble.coastStopDue (fun v => { v with rumble := v.rumble.stopMotor })

/-- The end brake is done, if due. -/
def Ef24.endBrakeDone (u : Ef24) : Ef24 := u.event u.rumble.endBrakeDue (fun v => { v with rumble := v.rumble.stopMotor })

/-- The motor's tick column comes before the step's end (R94). -/
def Ef24.motorEnds (u : Ef24) : Ef24 := u.kickEnd.coastStop.endBrakeDone

/-- The next step begins, if due. -/
def Ef24.stepEnd (u : Ef24) : Ef24 := u.event u.rumble.stepEndDue (fun v => { v with rumble := v.rumble.nextStep v.ceiling })

/-- The request's last play ends, if due. -/
def Ef24.patternFinished (u : Ef24) : Ef24 := u.event u.rumble.finishDue (fun v => v.withRumble (v.rumble.finish v.ceiling))

/-! ## Voices (R70, R75, R76, R79) -/

/-- A voice whose prime limit has passed enters PLAYING. -/
def Ef24.primeLimit (u : Ef24) (i : Nat) : Ef24 := u.event (u.sound.voice i).primeDue (fun v => v.onVoice Voice.primeLimit i)

/-- A voice's cue returns to its loop start, if due. -/
def Ef24.loopReturn (u : Ef24) (i : Nat) : Ef24 :=
  u.event (u.sound.voice i).loopDue (fun v => v.onVoice (fun _ x => (x.loopReturn, [])) i)

/-- A voice's cue ends by itself, if due. -/
def Ef24.naturalEnd (u : Ef24) (i : Nat) : Ef24 := u.event (u.sound.voice i).endDue (fun v => v.onVoice Voice.naturalEnd i)

/-- A voice's ramp ends, if due. -/
def Ef24.rampEnd (u : Ef24) (i : Nat) : Ef24 := u.event (u.sound.voice i).rampDue (fun v => v.onVoice Voice.rampEnd i)

/-- Everything due on one voice. -/
def Ef24.settleVoice (u : Ef24) (i : Nat) : Ef24 := (((u.primeLimit i).loopReturn i).naturalEnd i).rampEnd i

/-- Everything due on the six voices, in voice order. -/
def Ef24.settleVoices (u : Ef24) : Ef24 := voiceNumbers.foldl Ef24.settleVoice u

/-! ## Save Controller (R114 to R121, R128) -/

/-- DRAINING is left, if due. -/
def Ef24.drainingDone (u : Ef24) : Ef24 := u.event u.save.drainingDue Ef24.leaveDraining

/-- SCANNING or GUARDING is left, if due. -/
def Ef24.scanDone (u : Ef24) : Ef24 := u.event u.scanDue Ef24.leaveScanning

/-- INTENT ends, if due. -/
def Ef24.intentDone (u : Ef24) : Ef24 := u.event u.save.intentDue Ef24.finishIntent

/-- SWITCHING ends, if due. -/
def Ef24.switchingDone (u : Ef24) : Ef24 := u.event u.save.switchingDue Ef24.finishSwitching

/-- CLOSING ends, if due. -/
def Ef24.closingDone (u : Ef24) : Ef24 := u.event u.save.closingDue Ef24.finishClosing

/-- A seed ends, if due. -/
def Ef24.seedDone (u : Ef24) : Ef24 := u.event u.save.seedDue Ef24.finishSeed

/-- A format ends, if due. -/
def Ef24.formatDone (u : Ef24) : Ef24 := u.event u.save.formatDue Ef24.finishFormat

/-- A verify ends, if due. -/
def Ef24.verifyDone (u : Ef24) : Ef24 := u.event u.save.verifyDue Ef24.finishVerify

/-- Recovery ends, if due. -/
def Ef24.recoveryDone (u : Ef24) : Ef24 := u.event u.save.recoveryDue Ef24.finishRecovery

/-- Everything due in the Save Controller. -/
def Ef24.settleSave (u : Ef24) : Ef24 :=
  u.drainingDone.scanDone.intentDone.switchingDone.closingDone.seedDone.formatDone.verifyDone.recoveryDone

/-! ## Chip -/

/-- Everything due in the blocks: the rumble drive, the voices, the Save Controller. -/
def Ef24.settleBlocks (u : Ef24) : Ef24 := u.motorEnds.stepEnd.patternFinished.settleVoices.settleSave

/-- The chip falls asleep, if the five conditions hold (R181). -/
def Ef24.asleepReached (u : Ef24) : Ef24 := u.event u.sleepDue Ef24.fallAsleep

/-- Retention is lost with the last source (R185). -/
def Ef24.sourceCheck (u : Ef24) : Ef24 := if u.sourceLost then u.loseRetention else u

/-- Everything due, before a command (log 9). -/
def Ef24.settle (u : Ef24) : Ef24 := u.settleBlocks.asleepReached.sourceCheck.conclude

/-! ## Steps -/

/-- A command's effect: what is due first, then the command, then what follows at once (log 9, log 11). -/
def run (f : Ef24 → Ef24) (s : State) : Host.Outcome State Fault Refusal :=
  .next { s with toEf24 := (f s.toEf24.settle).conclude }

/-- An event's own row: the event alone. -/
def runEvent (f : Ef24 → Ef24) (s : State) : Host.Outcome State Fault Refusal := .next { s with toEf24 := f s.toEf24 }

end Sys2Proof.Machine
end

