-- ==== Sys2Proof/Machine/BlockSteps.lean ====
section
/-! DEFINITION. The steps the blocks take by themselves: line fetches, the table check, output samples, ticks, the SRAM port,
the ends of the sequencer's steps (Chapters 2 to 8). A row whose occasion is not there changes nothing (log 8). -/

namespace Sys2Proof.Machine

/-! ## ROM port and Table Loader -/

/-- A step that the core takes only while it runs. -/
def Ef24.whileRunning (u : Ef24) (f : Ef24 → Ef24) : Ef24 := if u.coreRunning then f u else u

/-- LINE_FETCH_WORD (R19; log 33). -/
def execLineFetchWord (s : State) : Host.Outcome State Fault Refusal := run (·.whileRunning Ef24.fetchWord) s

/-- LINE_FETCH_COMPLETE (R28; log 33). -/
def execLineFetchComplete (s : State) : Host.Outcome State Fault Refusal := run (·.whileRunning Ef24.fetchComplete) s

/-- TABLE_CHECK (R45). -/
def execTableCheck (s : State) : Host.Outcome State Fault Refusal := run (·.whileRunning Ef24.checkLoad) s

/-! ## Sound -/

/-- One output sample of the Sound Engine (R72, R80). -/
def Ef24.outputSample (u : Ef24) : Ef24 := u.withSound u.sound.output

/-- OUTPUT_SAMPLE (R72). -/
def execOutputSample (s : State) : Host.Outcome State Fault Refusal := run (·.whileRunning Ef24.outputSample) s

/-- A voice that has reached its prime limit enters PLAYING (R70; log 16). -/
def Ef24.reachPrimeLimit (u : Ef24) (voice : Nat) : Ef24 :=
  if (u.sound.voice voice).primeReached then u.onVoice Voice.primeLimit voice else u

/-- PRIME_LIMIT (R70). -/
def execPrimeLimit (voice : Nat) (s : State) : Host.Outcome State Fault Refusal :=
  run (·.whileRunning (·.reachPrimeLimit voice)) s

/-- LOOP_RETURN (R75). -/
def execLoopReturn (voice : Nat) (s : State) : Host.Outcome State Fault Refusal := runEvent (·.loopReturn voice) s

/-- CUE_NATURAL_END (R76). -/
def execCueNaturalEnd (voice : Nat) (s : State) : Host.Outcome State Fault Refusal := runEvent (·.naturalEnd voice) s

/-- RAMP_END (R79). -/
def execRampEnd (voice : Nat) (s : State) : Host.Outcome State Fault Refusal := runEvent (·.rampEnd voice) s

/-! ## Rumble -/

/-- A tick reaches the Rumble Drive (R92, R94). -/
def Ef24.tick (u : Ef24) : Ef24 := { u with rumble := u.rumble.tick }

/-- TICK (R94). -/
def execTick (s : State) : Host.Outcome State Fault Refusal := run (·.whileRunning Ef24.tick) s

/-- STEP_END, after the tick's effect on the motor (R92, R94). -/
def execStepEnd (s : State) : Host.Outcome State Fault Refusal := runEvent (·.motorEnds.stepEnd) s

/-- PATTERN_FINISHED, after the tick's effect on the motor (R92, R94). -/
def execPatternFinished (s : State) : Host.Outcome State Fault Refusal := runEvent (·.motorEnds.patternFinished) s

/-- KICK_END (R95). -/
def execKickEnd (s : State) : Host.Outcome State Fault Refusal := runEvent Ef24.kickEnd s

/-- COAST_STOP (R94). -/
def execCoastStop (s : State) : Host.Outcome State Fault Refusal := runEvent Ef24.coastStop s

/-- END_BRAKE_DONE (R92). -/
def execEndBrakeDone (s : State) : Host.Outcome State Fault Refusal := runEvent Ef24.endBrakeDone s

/-! ## The SRAM port (R110, R111) -/

/-- The access of a claim completes, if it is the one in progress. -/
def Ef24.access (u : Ef24) (c : Claim) (f : Ef24 → Ef24) : Ef24 := if u.save.port == some c then f u else u

/-- POSTED_WRITE_DRAIN (R113). -/
def execPostedWriteDrain (s : State) : Host.Outcome State Fault Refusal := run (·.access .drain Ef24.drainOne) s

/-- FLAG_WORD_ACCESS (R131). -/
def execFlagWordAccess (s : State) : Host.Outcome State Fault Refusal := run (·.access .flag Ef24.flagAccess) s

/-- SEQUENCER_ACCESS (R111). -/
def execSequencerAccess (s : State) : Host.Outcome State Fault Refusal := run (·.access .sequencer Ef24.sequencerAccess) s

/-! ## The ends of the sequencer's steps -/

/-- A step's end that its last access may still have to bring about: the end itself if it is due, else the access in progress
and then the end (log 10). -/
def Ef24.endStep (u : Ef24) (due : Ef24 → Bool) (finish : Ef24 → Ef24) : Ef24 :=
  if u.coreRunning && due u then (finish u).conclude
  else if u.settle.save.port == some .sequencer && due u.settle.sequencerAccess then
    (finish u.settle.sequencerAccess).conclude
  else u

/-- DRAINING_DONE (R114, R115, R117). -/
def execDrainingDone (s : State) : Host.Outcome State Fault Refusal := runEvent Ef24.drainingDone s

/-- SCAN_DONE (R117). -/
def execScanDone (s : State) : Host.Outcome State Fault Refusal :=
  runEvent (·.endStep Ef24.scanDue Ef24.leaveScanning) s

/-- INTENT_DONE (R118). -/
def execIntentDone (s : State) : Host.Outcome State Fault Refusal :=
  runEvent (·.endStep (·.save.intentDue) Ef24.finishIntent) s

/-- SWITCHING_DONE (R118). -/
def execSwitchingDone (s : State) : Host.Outcome State Fault Refusal :=
  runEvent (·.endStep (·.save.switchingDue) Ef24.finishSwitching) s

/-- CLOSING_DONE (R118). -/
def execClosingDone (s : State) : Host.Outcome State Fault Refusal :=
  runEvent (·.endStep (·.save.closingDue) Ef24.finishClosing) s

/-- SEED_DONE (R115). -/
def execSeedDone (s : State) : Host.Outcome State Fault Refusal :=
  runEvent (·.endStep (·.save.seedDue) Ef24.finishSeed) s

/-- FORMAT_DONE (R114). -/
def execFormatDone (s : State) : Host.Outcome State Fault Refusal :=
  runEvent (·.endStep (·.save.formatDue) Ef24.finishFormat) s

/-- VERIFY_DONE (R121). -/
def execVerifyDone (s : State) : Host.Outcome State Fault Refusal :=
  runEvent (·.endStep (·.save.verifyDue) Ef24.finishVerify) s

/-- RECOVERY_DONE (R128). -/
def execRecoveryDone (s : State) : Host.Outcome State Fault Refusal :=
  runEvent (·.endStep (·.save.recoveryDue) Ef24.finishRecovery) s

end Sys2Proof.Machine
end

