-- ==== Sys2Proof/Machine/Bus.lean ====
section
/-! DEFINITION. The Bus Decoder (Chapter 1) and the ports of the control aperture (Chapter 3). A console row carries an
address; which window holds it, and what the transaction then is, the decoder settles (log 6). -/

namespace Sys2Proof.Machine

/-! ## Decoding (R3, R4) -/

/-- The block of a byte address (section 1.2). -/
def blockOf (addr : Address) : Nat := addr.toNat / 4096

/-- The valid entry whose window holds a block (R3). -/
def Ef24.windowOf (u : Ef24) (block : Nat) : Option Nat :=
  (upTo 16).find? (fun i => (Table.get u.windows i WindowEntry.unused).holdsBlock block)

/-- A window entry. -/
def Ef24.window (u : Ef24) (i : Nat) : WindowEntry := Table.get u.windows i WindowEntry.unused

/-- The word offset of an address in a window; bit 0 of the address is not wired (section 1.2). -/
def WindowEntry.wordOffset (e : WindowEntry) (addr : Address) : Nat := (addr.toNat - 4096 * e.base.toNat) / 2

/-- The ROM word of an address in a ROM window (R5). -/
def WindowEntry.romWord (e : WindowEntry) (addr : Address) : Nat :=
  2048 * (e.romPage + e.bank * e.span) + e.wordOffset addr

/-- The console receives a word. -/
def Ef24.answer (u : Ef24) (w : Word) : Ef24 := { u with readData := w }

/-! ## The ports of the aperture (R33, R35, R36) -/

/-- The Command Unit with a word stored as the header of a new frame (R33). -/
def CommandUnit.header (c : CommandUnit) (w : Word) : CommandUnit :=
  let count := Field.get w 0 8
  if 1 ≤ count ∧ count ≤ 31 then
    { c with state := .collecting, frame := [w], expected := count, response := [], taken := 0 }
  else { c with state := .executing, frame := [w], expected := 0, response := [], taken := 0 }

/-- The Command Unit with a word stored as the next argument (R33). -/
def CommandUnit.argument (c : CommandUnit) (w : Word) : CommandUnit :=
  { c with
    state := if c.expected ≤ 1 then .executing else .collecting
    frame := c.frame ++ [w]
    expected := c.expected - 1 }

/-- A console write to COMMAND (R33). -/
def CommandUnit.write (c : CommandUnit) (w : Word) : CommandUnit :=
  match c.state with
  | .idle => c.header w
  | .collecting => c.argument w
  | .executing => { c with protocolError := true }
  | .responding => c.header w

/-- The next unread response word, FFFFh outside RESPONDING (R35). -/
def CommandUnit.next (c : CommandUnit) : Word :=
  match c.state with
  | .responding => c.response.getD c.taken noneWord
  | .idle => noneWord
  | .collecting => noneWord
  | .executing => noneWord

/-- A read of RESPONSE marks its word read; after the last one the state is IDLE (R35). -/
def CommandUnit.pop (c : CommandUnit) : CommandUnit :=
  match c.state with
  | .responding =>
    if c.taken + 1 < c.response.length then { c with taken := c.taken + 1 }
    else { c with state := .idle, response := [], taken := 0 }
  | .idle => c
  | .collecting => c
  | .executing => c

/-- The ports (R12). -/
inductive Port where
  | command
  | response
  | status
  | data
  | peek
  deriving DecidableEq, Repr

/-- The port at a word offset of the CONTROL window (R12). -/
def portAt : Nat → Option Port
  | 0 => some .command
  | 1 => some .response
  | 2 => some .status
  | 3 => some .data
  | 4 => some .peek
  | _ => none

/-- A console read of a port (R12, R35, R36). -/
def Ef24.readPort (u : Ef24) : Option Port → Ef24
  | some .response => { u.answer u.command.next with command := u.command.pop }
  | some .status => { u.answer u.statusWord with command := { u.command with protocolError := false } }
  | some .peek => u.answer u.command.next
  | some .command => u.answer noneWord
  | some .data => u.answer noneWord
  | none => u.answer noneWord

/-- A console write of a port (R12). -/
def Ef24.writePort (u : Ef24) (w : Word) : Option Port → Ef24
  | some .command => { u with command := u.command.write w }
  | some .data => u.dataWord w
  | some .response => u
  | some .status => u
  | some .peek => u
  | none => u

/-! ## Reads and writes in windows (R5 to R12) -/

/-- A console read in a ROM window: it takes the port, abandoning a line fetch, and is served at once (R5, R20, R21). -/
def Ef24.readRom (u : Ef24) (e : WindowEntry) (addr : Address) : Ef24 :=
  (u.takeRomPort.answer (u.rom.read (e.romWord addr))).freeRomPort

/-- A console read that the Save Controller serves: it abandons the internal access in progress (R110, R111, R113). -/
def Ef24.readSaved (u : Ef24) (address : Nat) : Ef24 := (u.takeSramPort).answer (u.savedWord address)

/-- A console read in a SAVE_STAGE window (R7). Past the image it gives FFFFh and leaves the SRAM port as it is (log 41). -/
def Ef24.readStage (u : Ef24) (slot offset : Nat) : Ef24 :=
  if offset < u.save.slotWords slot then u.readSaved (u.save.stagingBase slot + offset) else u.answer noneWord

/-- A console read in a SAVE_LIVE window (R9). Of an EMPTY slot and past the image it gives FFFFh and leaves the SRAM port as
it is (log 41). -/
def Ef24.readLive (u : Ef24) (slot offset : Nat) : Ef24 :=
  if (u.save.slot slot).record.valid && decide (offset < u.save.slotWords slot) then
    u.readSaved (u.save.liveBase slot + offset)
  else u.answer noneWord

/-- A console read in a FLAGS window (R10). Past the flag page it gives FFFFh and leaves the SRAM port as it is (log 41). -/
def Ef24.readFlags (u : Ef24) (offset : Nat) : Ef24 :=
  if offset < 256 then u.takeSramPort.answer (u.sram.read (flagPageBase + offset)) else u.answer noneWord

/-- A console read in a window (R5 to R12). -/
def Ef24.readWindow (u : Ef24) (e : WindowEntry) (addr : Address) : Ef24 :=
  match e.kindNamed with
  | some .rom => u.readRom e addr
  | some .saveStage => u.readStage e.slot (e.wordOffset addr)
  | some .saveLive => u.readLive e.slot (e.wordOffset addr)
  | some .flags => u.readFlags (e.wordOffset addr)
  | some .trigger => u.answer noneWord
  | some .control => u.readPort (portAt (e.wordOffset addr))
  | some .unused => u.answer noneWord
  | none => u.answer noneWord

/-- A console write in a ROM window (R6). -/
def Ef24.selectBank (u : Ef24) (i : Nat) (e : WindowEntry) (v : Word) : Ef24 :=
  if !e.bankSelect then u
  else if v.toNat < e.bankCount then { u with windows := Table.put u.windows i { e with bank := v.toNat } }
  else u.post .bankFault i v.toNat

/-- A console write in a TRIGGER window (R11). -/
def Ef24.trigger (u : Ef24) (i : Nat) (e : WindowEntry) (v : Word) : Ef24 :=
  if u.chip ≠ some .run then u
  else if v.toNat < e.actionCount then u.dispatch .trigger (e.actionBase + v.toNat)
  else u.post .triggerFault i v.toNat

/-- A console write in a SAVE_STAGE window (R8). -/
def Ef24.writeStage (u : Ef24) (slot offset : Nat) (v : Word) : Ef24 :=
  if offset < u.save.slotWords slot then u.stageWrite slot offset v else u

/-- A console write in window i (R6, R8 to R12). -/
def Ef24.writeWindow (u : Ef24) (i : Nat) (e : WindowEntry) (addr : Address) (v : Word) : Ef24 :=
  match e.kindNamed with
  | some .rom => u.selectBank i e v
  | some .saveStage => u.writeStage e.slot (e.wordOffset addr) v
  | some .saveLive => u
  | some .flags => u
  | some .trigger => u.trigger i e v
  | some .control => u.writePort v (portAt (e.wordOffset addr))
  | some .unused => u
  | none => u

/-! ## The transactions (R3, R4) -/

/-- A console read: FFFFh where the decoder does not decode or no window holds the block. -/
def Ef24.consoleRead (u : Ef24) (addr : Address) : Ef24 :=
  if u.coreRunning then
    match u.windowOf (blockOf addr) with
    | some i => u.readWindow (u.window i) addr
    | none => u.answer noneWord
  else u.answer noneWord

/-- A console write: ignored where the decoder does not decode or no window holds the block. -/
def Ef24.consoleWrite (u : Ef24) (addr : Address) (v : Word) : Ef24 :=
  if u.coreRunning then
    match u.windowOf (blockOf addr) with
    | some i => u.writeWindow i (u.window i) addr v
    | none => u
  else u

/-! ## The commands -/

/-- ROM_READ (R20). -/
def execRomRead (addr : Address) (s : State) : Host.Outcome State Fault Refusal := run (·.consoleRead addr) s

/-- BANK_SELECT (R6). -/
def execBankSelect (addr : Address) (value : Word) (s : State) : Host.Outcome State Fault Refusal :=
  run (·.consoleWrite addr value) s

/-- SAVE_STAGE_READ (R7). -/
def execSaveStageRead (addr : Address) (s : State) : Host.Outcome State Fault Refusal := run (·.consoleRead addr) s

/-- SAVE_STAGE_WRITE (R8, R112). -/
def execSaveStageWrite (addr : Address) (value : Word) (s : State) : Host.Outcome State Fault Refusal :=
  run (·.consoleWrite addr value) s

/-- SAVE_LIVE_READ (R9). -/
def execSaveLiveRead (addr : Address) (s : State) : Host.Outcome State Fault Refusal := run (·.consoleRead addr) s

/-- FLAGS_READ (R10). -/
def execFlagsRead (addr : Address) (s : State) : Host.Outcome State Fault Refusal := run (·.consoleRead addr) s

/-- TRIGGER_WRITE (R11). -/
def execTriggerWrite (addr : Address) (value : Word) (s : State) : Host.Outcome State Fault Refusal :=
  run (·.consoleWrite addr value) s

/-- IGNORED_WRITE (R3). -/
def execIgnoredWrite (addr : Address) (value : Word) (s : State) : Host.Outcome State Fault Refusal :=
  run (·.consoleWrite addr value) s

/-- DATA_WRITE (R43). -/
def execDataWrite (addr : Address) (value : Word) (s : State) : Host.Outcome State Fault Refusal :=
  run (·.consoleWrite addr value) s

/-- RESPONSE_READ (R35). -/
def execResponseRead (addr : Address) (s : State) : Host.Outcome State Fault Refusal := run (·.consoleRead addr) s

/-- STATUS_READ (R36, R37). -/
def execStatusRead (addr : Address) (s : State) : Host.Outcome State Fault Refusal := run (·.consoleRead addr) s

/-- COMMAND_WRITE (R33). -/
def execCommandWrite (addr : Address) (value : Word) (s : State) : Host.Outcome State Fault Refusal :=
  run (·.consoleWrite addr value) s

end Sys2Proof.Machine
end

