-- ==== Sys2Proof/Machine/Frames.lean ====
section
/-! DEFINITION. The execution of a frame (R34, R38) and the commands of the Command Unit, the Table Loader and the Action
Dispatcher (Chapters 3 and 4). -/

namespace Sys2Proof.Machine

/-! ## The checks of R34 -/

/-- Whether a frame is in EXECUTING that has not yet been carried out. -/
def Ef24.frameWaits (u : Ef24) : Bool := u.coreRunning && u.command.state == .executing && !u.awaitsFlag

/-- Whether the frame that waits is a given command's (log 7, log 8). -/
def Ef24.executes (u : Ef24) (c : Command) : Bool := u.frameWaits && u.command.opcode == c.opcode

/-- A frame of a command is checked and carried out (R34). -/
def Ef24.execute (u : Ef24) (c : Command) (body : Ef24 → Ef24) : Ef24 :=
  if !u.executes c then u
  else if !c.accepts u.command.argCount then u.respond .badLength []
  else if u.chip == some .asleep && !c.takenAsleep then u.respond .asleep []
  else body u

/-- The row of a command: its frame executes, if it stands in the Command Buffer. -/
def runFrame (c : Command) (body : Ef24 → Ef24) (s : State) : Host.Outcome State Fault Refusal :=
  run (fun u => u.execute c body) s

/-- An argument of the frame. -/
def Ef24.arg (u : Ef24) (i : Nat) : Nat := u.command.arg i

/-- An argument that the frame may leave out. -/
def Ef24.optionalArg (u : Ef24) (i : Nat) : Option Nat := if i < u.command.argCount then some (u.arg i) else none

/-- Whether a priority request is above 7 (R82, R101). -/
def priorityBad (p : Option Nat) : Bool := p.any (fun x => decide (7 < x))

/-! ## BAD_OPCODE -/

/-- A frame whose opcode names no command is answered BAD_OPCODE (R34). -/
def Ef24.answerBadOpcode (u : Ef24) : Ef24 :=
  if u.frameWaits && !opcodeNamed u.command.opcode then u.respond .badOpcode [] else u

/-- BAD_OPCODE (R34). -/
def execBadOpcode (s : State) : Host.Outcome State Fault Refusal := run Ef24.answerBadOpcode s

/-! ## STATUS QUERY (R41) -/

/-- The strap word. -/
def Ef24.strapWord (u : Ef24) : Word := word (Field.put u.sramCode.toNat 4 2 + Field.put u.romCode.toNat 0 2)

/-- The image words the Loader has received and needs, 0 when it is IDLE. -/
def Ef24.loadWords (u : Ef24) : Nat × Nat :=
  match u.loader with
  | some l => (l.staged.length, l.needed)
  | none => (0, 0)

/-- STATUS QUERY is carried out. -/
def Ef24.statusQuery (u : Ef24) : Ef24 :=
  u.respond .ok [u.statusWord, u.strapWord, word u.loadWords.1, word u.loadWords.2]

/-- STATUS_QUERY (R41). -/
def execStatusQuery (s : State) : Host.Outcome State Fault Refusal := runFrame .statusQuery Ef24.statusQuery s

/-! ## TABLE READ (R48) -/

/-- TABLE READ is carried out. -/
def Ef24.tableRead (u : Ef24) : Ef24 :=
  match tableOfId (u.arg 0) with
  | none => u.respond .badArg []
  | some t =>
    if u.arg 2 = 0 then u.respond .badArg []
    else if t.entries < u.arg 1 + u.arg 2 then u.respond .outOfRange []
    else u.respond .ok (u.tableImages t (u.arg 1) (u.arg 2))

/-- TABLE_READ (R48). -/
def execTableRead (s : State) : Host.Outcome State Fault Refusal := runFrame .tableRead Ef24.tableRead s

/-! ## LOAD TABLE and LOAD ABORT (R42, R46) -/

/-- The ROM word address of a LOAD TABLE frame: high 8 bits in 15:8 of the source word, then the low 16 bits. -/
def Ef24.loadAddress (u : Ef24) : Nat := u.arg 3 / 256 * 65536 + u.arg 4

/-- The Loader takes a load record with nothing received (R42). -/
def Ef24.beginLoad (u : Ef24) (t : TableId) (source : Option Nat) : Ef24 :=
  let l : Load :=
    { phase := if source.isSome then .fetching else .receiving, table := t, first := u.arg 1, count := u.arg 2,
      source := source, staged := [] }
  { u with loader := some l }

/-- LOAD TABLE is carried out: the checks of R42 in order. -/
def Ef24.loadTable (u : Ef24) : Ef24 :=
  if u.chip = some .enteringSleep then u.respond .asleep []
  else
    match tableOfId (u.arg 0) with
    | none => u.respond .badArg []
    | some t =>
      if 2 ≤ u.arg 3 % 256 ∨ u.arg 2 = 0 then u.respond .badArg []
      else if t.entries < u.arg 1 + u.arg 2 then u.respond .outOfRange []
      else if u.arg 3 % 256 = 1 ∧ Config.romWords u.romCode < u.loadAddress + u.arg 2 * t.entrySize then
        u.respond .outOfRange []
      else if u.loader.isSome then u.respond .busy []
      else (u.beginLoad t (if u.arg 3 % 256 = 1 then some u.loadAddress else none)).respond .accepted []

/-- LOAD_TABLE (R42). -/
def execLoadTable (s : State) : Host.Outcome State Fault Refusal := runFrame .loadTable Ef24.loadTable s

/-- LOAD ABORT is carried out. -/
def Ef24.loadAbort (u : Ef24) : Ef24 := u.abortLoad.respond .ok [if u.loadOpen then 1 else 0]

/-- LOAD_ABORT (R46). -/
def execLoadAbort (s : State) : Host.Outcome State Fault Refusal := runFrame .loadAbort Ef24.loadAbort s

/-! ## ACTION RUN (R60) -/

/-- ACTION RUN is carried out. -/
def Ef24.actionRun (u : Ef24) : Ef24 :=
  if 64 ≤ u.arg 0 then u.respond .outOfRange []
  else if u.chip = some .enteringSleep then u.respond .asleep []
  else (u.dispatch .command (u.arg 0)).respond .ok []

/-- ACTION_RUN (R60). -/
def execActionRun (s : State) : Host.Outcome State Fault Refusal := runFrame .actionRun Ef24.actionRun s

end Sys2Proof.Machine
end

