-- ==== Sys2Proof/Machine/CalendarCommands.lean ====
section
/-! DEFINITION. The calendar and timer commands (R145 to R153). -/

namespace Sys2Proof.Machine

/-! ## CLOCK SET (R146 to R148) -/

/-- The reading a CLOCK SET frame gives. -/
def Ef24.clockArgs (u : Ef24) : DateTime :=
  { year := u.arg 0, month := u.arg 1, date := u.arg 2, hour := u.arg 3, minute := u.arg 4, second := u.arg 5 }

/-- CLOCK SET is carried out: a first, a forward or a backward set. -/
def Ef24.clockSet (u : Ef24) : Ef24 :=
  let t := u.clockArgs
  if !t.exists_ then u.respond .badArg []
  else if !u.calendar.valid then (u.setFirst t).respond .ok [0, 0, 0]
  else if u.calendar.high ≤ t.instant then
    (u.setForward t).respond .ok [1, word (u.calendar.applied t), word (min 65535 (u.calendar.skipped t))]
  else (u.setBackward t).respond .ok [2, word (u.calendar.minutesBehind t), 0]

/-- CLOCK_SET (R146, R147, R148). -/
def execClockSet (s : State) : Host.Outcome State Fault Refusal := runFrame .clockSet Ef24.clockSet s

/-! ## Readings and settings (R145, R150, R151) -/

/-- The four words of CLOCK READ (section 13.5). -/
def Calendar.clockWords (c : Calendar) : List Word :=
  [ word c.now.year,
    word (Field.put c.now.month 8 8 + Field.put c.now.date 0 8),
    word (Field.put c.now.hour 8 8 + Field.put c.now.minute 0 8),
    word (Field.put c.now.second 8 8 + Field.put c.now.weekday 4 3 + Field.mark c.valid 1 + Field.mark c.behind 0) ]

/-- CLOCK READ is carried out (R151). -/
def Ef24.clockRead (u : Ef24) : Ef24 := u.respond .ok u.calendar.clockWords

/-- CLOCK_READ (R151). -/
def execClockRead (s : State) : Host.Outcome State Fault Refusal := runFrame .clockRead Ef24.clockRead s

/-- DAY START SET is carried out (R145). -/
def Ef24.dayStartSet (u : Ef24) : Ef24 :=
  if 23 < u.arg 0 then u.respond .badArg []
  else (u.onCalendar (fun c => { c with dayStart := u.arg 0 })).respond .ok []

/-- DAY_START_SET (R145). -/
def execDayStartSet (s : State) : Host.Outcome State Fault Refusal := runFrame .dayStartSet Ef24.dayStartSet s

/-- The three words of GAME DAY READ (section 13.5). -/
def Calendar.gameDayWords (c : Calendar) : List Word :=
  [highWord c.gameDay, word c.gameDay, word (Field.put c.dayStart 8 5 + Field.put c.advanceCap 0 8)]

/-- GAME DAY READ is carried out (R151). -/
def Ef24.gameDayRead (u : Ef24) : Ef24 := u.respond .ok u.calendar.gameDayWords

/-- GAME_DAY_READ (R151). -/
def execGameDayRead (s : State) : Host.Outcome State Fault Refusal := runFrame .gameDayRead Ef24.gameDayRead s

/-- ADVANCE CAP SET is carried out (R150). -/
def Ef24.advanceCapSet (u : Ef24) : Ef24 :=
  if u.arg 0 = 0 ∨ 255 < u.arg 0 then u.respond .badArg []
  else (u.onCalendar (fun c => { c with advanceCap := u.arg 0 })).respond .ok []

/-- ADVANCE_CAP_SET (R150). -/
def execAdvanceCapSet (s : State) : Host.Outcome State Fault Refusal := runFrame .advanceCapSet Ef24.advanceCapSet s

/-! ## The timer commands (R153) -/

/-- TIMER RUN is carried out. -/
def Ef24.timerRun (u : Ef24) : Ef24 := (u.onCalendar (fun c => { c with timerRunning := true })).respond .ok []

/-- TIMER_RUN (R153). -/
def execTimerRun (s : State) : Host.Outcome State Fault Refusal := runFrame .timerRun Ef24.timerRun s

/-- TIMER STOP is carried out. -/
def Ef24.timerStop (u : Ef24) : Ef24 := (u.onCalendar (fun c => { c with timerRunning := false })).respond .ok []

/-- TIMER_STOP (R153). -/
def execTimerStop (s : State) : Host.Outcome State Fault Refusal := runFrame .timerStop Ef24.timerStop s

/-- TIMER CLEAR is carried out. -/
def Ef24.timerClear (u : Ef24) : Ef24 :=
  (u.onCalendar (fun c => { c with timerSeconds := 0, timerHundredths := 0 })).respond .ok []

/-- TIMER_CLEAR (R153). -/
def execTimerClear (s : State) : Host.Outcome State Fault Refusal := runFrame .timerClear Ef24.timerClear s

/-- The three words of TIMER READ (section 13.5). -/
def Calendar.timerWords (c : Calendar) : List Word :=
  [highWord c.timerSeconds, word c.timerSeconds, word (Field.mark c.timerRunning 15 + Field.put c.timerHundredths 0 7)]

/-- TIMER READ is carried out. -/
def Ef24.timerRead (u : Ef24) : Ef24 := u.respond .ok u.calendar.timerWords

/-- TIMER_READ (R153). -/
def execTimerRead (s : State) : Host.Outcome State Fault Refusal := runFrame .timerRead Ef24.timerRead s

end Sys2Proof.Machine
end

