-- ==== Sys2Proof/Machine/ChipCommands.lean ====
section
/-! DEFINITION. The commands of the Event Unit (R169, R170) and of the Power Monitor (R180 to R183). -/

namespace Sys2Proof.Machine

/-! ## Events -/

/-- How many records a take of n removes (R169). -/
def EventUnit.takes (e : EventUnit) (n : Nat) : Nat := min n e.queue.length

/-- The result words of a take of n: the count word, then the records, oldest first (R169). -/
def EventUnit.takeWords (e : EventUnit) (n : Nat) : List Word :=
  word (Field.mark e.overflow 15 + Field.put (e.takes n) 0 3) :: (e.queue.take n).flatMap Event.words

/-- The Event Unit after a take of n (R169). -/
def EventUnit.afterTake (e : EventUnit) (n : Nat) : EventUnit := { e with queue := e.queue.drop n, overflow := false }

/-- EVENT TAKE is carried out. -/
def Ef24.eventTake (u : Ef24) : Ef24 :=
  if u.arg 0 = 0 ∨ 7 < u.arg 0 then u.respond .badArg []
  else { u with events := u.events.afterTake (u.arg 0) }.respond .ok (u.events.takeWords (u.arg 0))

/-- EVENT_TAKE (R169). -/
def execEventTake (s : State) : Host.Outcome State Fault Refusal := runFrame .eventTake Ef24.eventTake s

/-- EVENT MASK SET is carried out (R170, section 13.2). -/
def Ef24.eventMaskSet (u : Ef24) : Ef24 :=
  if 4 ≤ u.arg 1 then u.respond .badArg []
  else { u with events := { u.events with mask := BitVec.ofNat 18 (u.arg 1 * 65536 + u.arg 0) } }.respond .ok []

/-- EVENT_MASK_SET (R170). -/
def execEventMaskSet (s : State) : Host.Outcome State Fault Refusal := runFrame .eventMaskSet Ef24.eventMaskSet s

/-! ## Sleep, wake, supply -/

/-- SLEEP is carried out: BUSY in ENTERING_SLEEP, ACCEPTED in RUN (R180). -/
def Ef24.sleep (u : Ef24) : Ef24 :=
  if u.chip = some .enteringSleep then u.respond .busy [] else u.enterSleep.respond .accepted []

/-- SLEEP (R180). -/
def execSleep (s : State) : Host.Outcome State Fault Refusal := runFrame .sleep Ef24.sleep s

/-- WAKE is carried out (R165, R182). -/
def Ef24.wake (u : Ef24) : Ef24 :=
  if u.chip = some .asleep then ({ u with chip := some .run }.deliverAll).respond .ok [1]
  else if u.chip = some .run then u.respond .ok [0]
  else u.respond .busy []

/-- WAKE (R182). -/
def execWake (s : State) : Host.Outcome State Fault Refusal := runFrame .wake Ef24.wake s

/-- The word of SUPPLY READ (section 13.5). -/
def Power.supplyWord (p : Power) : Word :=
  word (Field.mark p.coinLow 5 + Field.mark p.heavyLoad 4 + Field.put p.supply.code 0 3)

/-- SUPPLY READ is carried out (R183). -/
def Ef24.supplyRead (u : Ef24) : Ef24 := u.respond .ok [u.power.supplyWord]

/-- SUPPLY_READ (R183). -/
def execSupplyRead (s : State) : Host.Outcome State Fault Refusal := runFrame .supplyRead Ef24.supplyRead s

end Sys2Proof.Machine
end

