-- ==== Sys2Proof/Machine/ChipSteps.lean ====
section
/-! DEFINITION. The steps of the crystal, the supply, the coin cell and /CRST (Chapters 9 and 12). -/

namespace Sys2Proof.Machine

/-! ## Crystal -/

/-- A second reaches the Calendar Unit, which counts while the backup domain holds its state (R139; log 34). -/
def Ef24.crystalSecond (u : Ef24) : Ef24 := if u.power.retained then u.second else u

/-- CALENDAR_SECOND (R139, R141). -/
def execCalendarSecond (s : State) : Host.Outcome State Fault Refusal := run Ef24.crystalSecond s

/-- PLAY_TIMER_HUNDREDTH (R152). -/
def execPlayTimerHundredth (s : State) : Host.Outcome State Fault Refusal := run Ef24.hundredth s

/-! ## Chip, supply, reset, coin cell -/

/-- ASLEEP_REACHED (R181). -/
def execAsleepReached (s : State) : Host.Outcome State Fault Refusal := runEvent (·.settleBlocks.asleepReached) s

/-- VCC_CROSSING (R174). -/
def execVccCrossing (millivolts : Nat) (s : State) : Host.Outcome State Fault Refusal := run (·.setVcc millivolts) s

/-- SUPPLY_STATE_CHANGE (R174; log 38). -/
def execSupplyStateChange (change : SupplyChange) (s : State) : Host.Outcome State Fault Refusal :=
  run (·.supplyChange change) s

/-- CRST_ASSERT (R179). -/
def execCrstAssert (s : State) : Host.Outcome State Fault Refusal := run Ef24.assertReset s

/-- CRST_RELEASE (R178). -/
def execCrstRelease (s : State) : Host.Outcome State Fault Refusal := run Ef24.releaseReset s

/-- VBAT_CHANGE (R184, R185). -/
def execVbatChange (millivolts : Option Nat) (s : State) : Host.Outcome State Fault Refusal := run (·.setCell millivolts) s

/-- COIN_CELL_LOW_CHANGE (R184). -/
def execCoinCellLowChange (s : State) : Host.Outcome State Fault Refusal := run Ef24.changeCoinLow s

/-- RETENTION_LOSS (R185). -/
def execRetentionLoss (s : State) : Host.Outcome State Fault Refusal := run Ef24.retentionLoss s

end Sys2Proof.Machine
end

