-- ==== Sys2Proof/Machine/RumbleCommands.lean ====
section
/-! DEFINITION. The rumble commands (R101 to R103). -/

namespace Sys2Proof.Machine

/-- What RUMBLE START answers to the Drive's decision (R101). -/
def Ef24.answerStart (u : Ef24) : Submission → Ef24
  | .started => u.respond .ok [0]
  | .queued => u.respond .ok [1]
  | .refused .disabled => u.respond .disabled []
  | .refused .unplayable => u.respond .badArg []
  | .refused .queueFull => u.respond .busy []

/-- The effective priority of a RUMBLE START (R56, R89). -/
def Ef24.startPriority (u : Ef24) : Nat := raised (u.rumble.header (u.arg 0)).priority.toNat (u.optionalArg 1)

/-- The request a RUMBLE START forms (R89). -/
def Ef24.startRequest (u : Ef24) : Request := u.rumble.form (u.arg 0) u.startPriority .command none

/-- RUMBLE START is carried out (R101). -/
def Ef24.rumbleStart (u : Ef24) : Ef24 :=
  if priorityBad (u.optionalArg 1) || (decide (u.arg 0 < 32) && !u.rumble.playable (u.arg 0)) then u.respond .badArg []
  else if 32 ≤ u.arg 0 then u.respond .outOfRange []
  else if u.chip = some .enteringSleep then u.respond .asleep []
  else if u.rumble.wouldOverflow u.startPriority then u.respond .busy []
  else if !u.rumble.enabled then u.respond .disabled []
  else (u.submitRumble u.startRequest).answerStart (u.rumble.submit u.startRequest u.ceiling).2.2

/-- RUMBLE_START (R101). -/
def execRumbleStart (s : State) : Host.Outcome State Fault Refusal := runFrame .rumbleStart Ef24.rumbleStart s

/-- RUMBLE CUT is carried out (R101). -/
def Ef24.rumbleCut (u : Ef24) : Ef24 := (u.removeRumble .cut).respond .ok [word u.rumble.held]

/-- RUMBLE_CUT (R101). -/
def execRumbleCut (s : State) : Host.Outcome State Fault Refusal := runFrame .rumbleCut Ef24.rumbleCut s

/-- Rumble turned on or off; off removes every request (R102). -/
def Ef24.enableRumble (u : Ef24) (on : Bool) : Ef24 :=
  if on then { u with rumble := { u.rumble with enabled := true } }
  else { u with rumble := { u.rumble with enabled := false } }.removeRumble .disabled

/-- RUMBLE ENABLE is carried out (R102). -/
def Ef24.rumbleEnable (u : Ef24) : Ef24 :=
  if 2 ≤ u.arg 0 then u.respond .badArg [] else (u.enableRumble (u.arg 0 == 1)).respond .ok []

/-- RUMBLE_ENABLE (R102). -/
def execRumbleEnable (s : State) : Host.Outcome State Fault Refusal := runFrame .rumbleEnable Ef24.rumbleEnable s

/-- Whether a Guard Strength and a Heavy Threshold are allowed (R102). -/
def limitsBad (guardStrength heavyThreshold : Nat) : Bool :=
  decide (heavyThreshold = 0 ∨ 15 < heavyThreshold ∨ 14 < guardStrength ∨ heavyThreshold ≤ guardStrength)

/-- RUMBLE LIMITS is carried out (R102). -/
def Ef24.rumbleLimits (u : Ef24) : Ef24 :=
  if limitsBad (u.arg 0) (u.arg 1) then u.respond .badArg []
  else { u with rumble := { u.rumble with guardStrength := u.arg 0, heavyThreshold := u.arg 1 } }.respond .ok []

/-- RUMBLE_LIMITS (R102). -/
def execRumbleLimits (s : State) : Host.Outcome State Fault Refusal := runFrame .rumbleLimits Ef24.rumbleLimits s

/-- The codes of the motor states (section 13.5). -/
def MotorState.code : MotorState → Nat
  | .stopped => 0
  | .kick => 1
  | .driving => 2
  | .coasting => 3
  | .braking => 4

/-- Words 3 and 4 of RUMBLE STATUS: the playing request, zeros for none (R103). -/
def Playing.words : Option Playing → List Word
  | some p =>
    [ word (Field.put p.request.pattern 8 5 + Field.put p.request.priority 4 3 + Field.put p.request.source.code 2 2 +
        Field.mark true 0),
      word (Field.put (p.playsLeft.getD 15) 12 4 + Field.put p.step 4 6 + Field.put (p.request.voice.getD 7) 0 3) ]
  | none => [0, 0]

/-- The word of a queue place of RUMBLE STATUS, zero beyond the queue (R103). -/
def queueWord : Option Request → Word
  | some q => word (Field.put q.pattern 8 5 + Field.put q.priority 0 3)
  | none => 0

/-- The eight words of RUMBLE STATUS (R103, section 13.5). -/
def Ef24.rumbleWords (u : Ef24) : List Word :=
  [ word (Field.put u.ceiling 8 4 + Field.put u.rumble.motor.strength 4 4 + Field.put u.rumble.motor.state.code 0 3),
    word (Field.put u.rumble.heavyThreshold 8 4 + Field.put u.rumble.guardStrength 4 4 +
      Field.mark u.rumble.heavyLoad 2 + Field.mark u.save.guard 1 + Field.mark u.rumble.enabled 0) ] ++
    Playing.words u.rumble.playing ++
    [ word u.rumble.queue.length, queueWord u.rumble.queue[0]?, queueWord u.rumble.queue[1]?,
      queueWord u.rumble.queue[2]? ]

/-- RUMBLE STATUS is carried out (R103). -/
def Ef24.rumbleStatus (u : Ef24) : Ef24 := u.respond .ok u.rumbleWords

/-- RUMBLE_STATUS (R103). -/
def execRumbleStatus (s : State) : Host.Outcome State Fault Refusal := runFrame .rumbleStatus Ef24.rumbleStatus s

end Sys2Proof.Machine
end

