-- ==== Sys2Proof/Machine/SaveCommands.lean ====
section
/-! DEFINITION. The save commands (R114 to R122) and the flag commands (R132 to R134). -/

namespace Sys2Proof.Machine

/-- The slots the checks count: the slot count, 8 while the volume is not READY (R115). -/
def Save.slotLimit (s : Save) : Nat := if s.volume = .ready then s.slotCount else 8

/-! ## SAVE FORMAT (R114) -/

/-- The image sizes a SAVE FORMAT frame gives. -/
def Ef24.formatSizes (u : Ef24) : List Nat := (upTo (u.arg 0)).map (fun k => u.arg (k + 1))

/-- Whether the arguments of a SAVE FORMAT frame are refused BAD_ARG. -/
def Ef24.formatBad (u : Ef24) : Bool :=
  decide (u.arg 0 = 0 ∨ 8 < u.arg 0 ∨ u.command.argCount ≠ u.arg 0 + 1) ||
    !volumeFits u.formatSizes (Config.sramKiB u.sramCode)

/-- Whether a window of a kind that shows the SRAM is valid (R114). -/
def Ef24.saveWindowsOpen (u : Ef24) : Bool :=
  u.windows.toList.any (fun e =>
    e.kindNamed == some .saveStage || e.kindNamed == some .saveLive || e.kindNamed == some .flags)

/-- Every Tainted and Bad mark is cleared (R109, R114). -/
def Save.clearMarks (s : Save) : Save :=
  (upTo 8).foldl (fun t k => t.onSlot k (fun x => { x with tainted := false, bad := false })) s

/-- SAVE FORMAT is carried out. -/
def Ef24.saveFormat (u : Ef24) : Ef24 :=
  if u.formatBad then u.respond .badArg []
  else if u.save.volume = .recovering then u.respond .notReady []
  else if u.save.sequencer ≠ .idle then u.respond .busy []
  else if u.saveWindowsOpen then u.respond .windowsOpen []
  else
    (u.onSave (fun s => { s.clearMarks with
      volume := .unformatted, sequencer := .formatDraining u.formatSizes })).respond .accepted []

/-- SAVE_FORMAT (R114). -/
def execSaveFormat (s : State) : Host.Outcome State Fault Refusal := runFrame .saveFormat Ef24.saveFormat s

/-! ## The slot commands (R115, R116, R120 to R122) -/

/-- The checks that SLOT SEED, SLOT DISCARD and SLOT VERIFY share, in their order (R115, R120, R121). -/
def Ef24.withSlot (u : Ef24) (accepted : Nat → Ef24) : Ef24 :=
  if u.save.slotLimit ≤ u.arg 0 then u.respond .outOfRange []
  else if u.save.volume ≠ .ready then u.respond .notReady []
  else if u.save.sequencer ≠ .idle then u.respond .busy []
  else accepted (u.arg 0)

/-- SLOT SEED is carried out (R115). -/
def Ef24.slotSeed (u : Ef24) : Ef24 := u.withSlot (fun k => (u.sequence (.seedDraining k)).respond .accepted [])

/-- SLOT_SEED (R115). -/
def execSlotSeed (s : State) : Host.Outcome State Fault Refusal := runFrame .slotSeed Ef24.slotSeed s

/-- The bytes of an image of slot k. -/
def Save.imageBytes (s : Save) (k : Nat) : Nat := 2 * s.slotWords k

/-- Whether the data length of a SLOT COMMIT is refused BAD_ARG (R116). -/
def Ef24.commitBad (u : Ef24) (k length : Nat) : Bool :=
  decide (length % 2 = 1 ∨ length = 0 ∨ 64512 < length) ||
    decide (u.save.volume = .ready ∧ k < u.save.slotCount ∧ u.save.imageBytes k < length)

/-- SLOT COMMIT is carried out (R116). -/
def Ef24.slotCommit (u : Ef24) : Ef24 :=
  if u.commitBad (u.arg 0) (u.arg 1) then u.respond .badArg []
  else u.withSlot (fun k =>
    if (u.save.slot k).tainted then u.respond .tainted []
    else ((u.setGuard true).sequence (.commitDraining k (u.arg 1))).respond .accepted [])

/-- SLOT_COMMIT (R116). -/
def execSlotCommit (s : State) : Host.Outcome State Fault Refusal := runFrame .slotCommit Ef24.slotCommit s

/-- The EMPTY record a discard writes (R120). -/
def Ef24.discardRecord (u : Ef24) (k : Nat) : SlotRecord := SlotRecord.empty ((u.save.slot k).record.generation + 1)

/-- SLOT DISCARD is carried out (R120). -/
def Ef24.slotDiscard (u : Ef24) : Ef24 :=
  u.withSlot (fun k =>
    ((((u.setTainted k false).setBad k false).beginIntent false k (u.discardRecord k))).respond .accepted [])

/-- SLOT_DISCARD (R120). -/
def execSlotDiscard (s : State) : Host.Outcome State Fault Refusal := runFrame .slotDiscard Ef24.slotDiscard s

/-- SLOT VERIFY is carried out: an EMPTY slot's verify ends at once (R121). -/
def Ef24.slotVerify (u : Ef24) : Ef24 :=
  u.withSlot (fun k =>
    if (u.save.slot k).record.valid then (u.sequence (.verifying k 0 crcStart)).respond .accepted []
    else ((u.setBad k false).respond .accepted []).postDone .slotVerify .ok k)

/-- SLOT_VERIFY (R121). -/
def execSlotVerify (s : State) : Host.Outcome State Fault Refusal := runFrame .slotVerify Ef24.slotVerify s

/-- The eleven words of SLOT INFO (R122, section 13.5). -/
def Ef24.slotWords (u : Ef24) (k : Nat) : List Word :=
  let x := u.save.slot k
  [ word (Field.mark x.bad 3 + Field.mark x.tainted 2 + x.record.stateBits),
    x.record.generation, x.record.dataLength, x.record.crc ] ++ twoWords x.record.gameDay ++
    twoWords x.record.playSeconds ++ instantWords x.record.instant ++ [word (u.save.sizes.getD k 0)]

/-- SLOT INFO is carried out (R122). -/
def Ef24.slotInfo (u : Ef24) : Ef24 :=
  if u.save.slotLimit ≤ u.arg 0 then u.respond .outOfRange []
  else if u.save.volume ≠ .ready then u.respond .notReady []
  else u.respond .ok (u.slotWords (u.arg 0))

/-- SLOT_INFO (R122). -/
def execSlotInfo (s : State) : Host.Outcome State Fault Refusal := runFrame .slotInfo Ef24.slotInfo s

/-! ## The flag commands (R132 to R134) -/

/-- A flag command's operation joins the list when the volume is READY; the answer comes when it finishes (R130, R132). -/
def Ef24.askFlags (u : Ef24) (kind : FlagKind) (first count : Nat) (polarity : Bool) : Ef24 :=
  if u.save.volume ≠ .ready then u.respond .notReady []
  else u.joinFlags (FlagOp.new kind true first count polarity)

/-- A single-flag command (R132). -/
def Ef24.singleFlag (u : Ef24) (kind : FlagKind) : Ef24 :=
  if 4096 ≤ u.arg 0 then u.respond .outOfRange [] else u.askFlags kind (u.arg 0) 1 false

/-- FLAG_TEST (R132). -/
def execFlagTest (s : State) : Host.Outcome State Fault Refusal := runFrame .flagTest (·.singleFlag .test) s

/-- FLAG_SET (R132). -/
def execFlagSet (s : State) : Host.Outcome State Fault Refusal := runFrame .flagSet (·.singleFlag .set) s

/-- FLAG_CLEAR (R132). -/
def execFlagClear (s : State) : Host.Outcome State Fault Refusal := runFrame .flagClear (·.singleFlag .clear) s

/-- FLAG_TOGGLE (R132). -/
def execFlagToggle (s : State) : Host.Outcome State Fault Refusal := runFrame .flagToggle (·.singleFlag .toggle) s

/-- FLAG SCAN is carried out (R133). -/
def Ef24.flagScan (u : Ef24) : Ef24 :=
  if u.arg 1 = 0 ∨ 2 ≤ u.arg 2 then u.respond .badArg []
  else if 4096 < u.arg 0 + u.arg 1 then u.respond .outOfRange []
  else u.askFlags .scan (u.arg 0) (u.arg 1) (u.arg 2 == 1)

/-- FLAG_SCAN (R133). -/
def execFlagScan (s : State) : Host.Outcome State Fault Refusal := runFrame .flagScan Ef24.flagScan s

/-- FLAG CLEAR RANGE is carried out (R134). -/
def Ef24.flagClearRange (u : Ef24) : Ef24 :=
  if u.arg 1 = 0 then u.respond .badArg []
  else if 4096 < u.arg 0 + u.arg 1 then u.respond .outOfRange []
  else u.askFlags .clearRange (u.arg 0) (u.arg 1) false

/-- FLAG_CLEAR_RANGE (R134). -/
def execFlagClearRange (s : State) : Host.Outcome State Fault Refusal := runFrame .flagClearRange Ef24.flagClearRange s

end Sys2Proof.Machine
end

