-- ==== Sys2Proof/Machine/SoundCommands.lean ====
section
/-! DEFINITION. The sound commands (R82 to R84). -/

namespace Sys2Proof.Machine

/-- What CUE PLAY answers to the engine's decision (R82). -/
def Ef24.answerPlay (u : Ef24) : PlayResult → Ef24
  | .accepted voice => u.respond .ok [word voice]
  | .unplayable => u.respond .badArg []
  | .noVoice _ => u.respond .noVoice []

/-- CUE PLAY is carried out (R82). -/
def Ef24.cuePlay (u : Ef24) : Ef24 :=
  if priorityBad (u.optionalArg 1) || (decide (u.arg 0 < 128) && (u.sound.cue (u.arg 0)).isEmpty) then u.respond .badArg []
  else if 128 ≤ u.arg 0 then u.respond .outOfRange []
  else
    let x := u.sound.request (u.arg 0) (u.optionalArg 1) u.playsOpen
    (u.withSound (x.1, x.2.1)).answerPlay x.2.2

/-- CUE_PLAY (R82). -/
def execCuePlay (s : State) : Host.Outcome State Fault Refusal := runFrame .cuePlay Ef24.cuePlay s

/-- VOICE STOP is carried out (R83). -/
def Ef24.voiceStop (u : Ef24) : Ef24 :=
  if 6 ≤ u.arg 0 then u.respond .outOfRange []
  else (u.onVoice Voice.stop (u.arg 0)).respond .ok [if (u.sound.voice (u.arg 0)).stoppable then 1 else 0]

/-- VOICE_STOP (R83). -/
def execVoiceStop (s : State) : Host.Outcome State Fault Refusal := runFrame .voiceStop Ef24.voiceStop s

/-- SOUND STOP ALL is carried out (R83). -/
def Ef24.soundStopAll (u : Ef24) : Ef24 := u.silence.respond .ok [word u.sound.stoppableCount]

/-- SOUND_STOP_ALL (R83). -/
def execSoundStopAll (s : State) : Host.Outcome State Fault Refusal := runFrame .soundStopAll Ef24.soundStopAll s

/-- SOUND VOLUME is carried out (R84). -/
def Ef24.soundVolume (u : Ef24) : Ef24 :=
  if 15 < u.arg 0 then u.respond .badArg []
  else { u with sound := { u.sound with masterVolume := u.arg 0 } }.respond .ok []

/-- SOUND_VOLUME (R84). -/
def execSoundVolume (s : State) : Host.Outcome State Fault Refusal := runFrame .soundVolume Ef24.soundVolume s

/-- The codes of the voice states (section 13.5). -/
def VoiceState.code : VoiceState → Nat
  | .free => 0
  | .priming => 1
  | .playing => 2
  | .releasing => 3

/-- The position VOICE STATUS reports: 0 for a FREE voice (R84). -/
def Voice.reportedPosition (v : Voice) : Nat := if v.inUse then v.position else 0

/-- A voice's three words (R84, section 13.5). -/
def Voice.words (v : Voice) : List Word :=
  [ word (Field.put v.play.cue 8 7 + Field.mark v.next.isSome 2 + Field.put v.state.code 0 2),
    highWord v.reportedPosition,
    word v.reportedPosition ]

/-- VOICE STATUS is carried out (R84). -/
def Ef24.voiceStatus (u : Ef24) : Ef24 := u.respond .ok (voiceNumbers.flatMap (fun i => (u.sound.voice i).words))

/-- VOICE_STATUS (R84). -/
def execVoiceStatus (s : State) : Host.Outcome State Fault Refusal := runFrame .voiceStatus Ef24.voiceStatus s

end Sys2Proof.Machine
end

