-- ==== Sys2Proof/Machine/Dispatch.lean ====
section
/-! DEFINITION. One arm for each command: a direct call of its meaning. -/

namespace Sys2Proof.Machine

/-- The effect of a command on everything but the queue. -/
def exec (i : Instr) (s : State) : Host.Outcome State Fault Refusal :=
  match i with
  | .romRead addr => Sys2Proof.Machine.execRomRead addr s
  | .bankSelect addr value => Sys2Proof.Machine.execBankSelect addr value s
  | .saveStageRead addr => Sys2Proof.Machine.execSaveStageRead addr s
  | .saveStageWrite addr value => Sys2Proof.Machine.execSaveStageWrite addr value s
  | .saveLiveRead addr => Sys2Proof.Machine.execSaveLiveRead addr s
  | .flagsRead addr => Sys2Proof.Machine.execFlagsRead addr s
  | .triggerWrite addr value => Sys2Proof.Machine.execTriggerWrite addr value s
  | .ignoredWrite addr value => Sys2Proof.Machine.execIgnoredWrite addr value s
  | .dataWrite addr value => Sys2Proof.Machine.execDataWrite addr value s
  | .responseRead addr => Sys2Proof.Machine.execResponseRead addr s
  | .statusRead addr => Sys2Proof.Machine.execStatusRead addr s
  | .badOpcode => Sys2Proof.Machine.execBadOpcode s
  | .statusQuery => Sys2Proof.Machine.execStatusQuery s
  | .tableRead => Sys2Proof.Machine.execTableRead s
  | .loadTable => Sys2Proof.Machine.execLoadTable s
  | .loadAbort => Sys2Proof.Machine.execLoadAbort s
  | .actionRun => Sys2Proof.Machine.execActionRun s
  | .cuePlay => Sys2Proof.Machine.execCuePlay s
  | .voiceStop => Sys2Proof.Machine.execVoiceStop s
  | .soundStopAll => Sys2Proof.Machine.execSoundStopAll s
  | .soundVolume => Sys2Proof.Machine.execSoundVolume s
  | .voiceStatus => Sys2Proof.Machine.execVoiceStatus s
  | .rumbleStart => Sys2Proof.Machine.execRumbleStart s
  | .rumbleCut => Sys2Proof.Machine.execRumbleCut s
  | .rumbleEnable => Sys2Proof.Machine.execRumbleEnable s
  | .rumbleLimits => Sys2Proof.Machine.execRumbleLimits s
  | .rumbleStatus => Sys2Proof.Machine.execRumbleStatus s
  | .saveFormat => Sys2Proof.Machine.execSaveFormat s
  | .slotSeed => Sys2Proof.Machine.execSlotSeed s
  | .slotCommit => Sys2Proof.Machine.execSlotCommit s
  | .slotDiscard => Sys2Proof.Machine.execSlotDiscard s
  | .slotVerify => Sys2Proof.Machine.execSlotVerify s
  | .slotInfo => Sys2Proof.Machine.execSlotInfo s
  | .flagTest => Sys2Proof.Machine.execFlagTest s
  | .flagSet => Sys2Proof.Machine.execFlagSet s
  | .flagClear => Sys2Proof.Machine.execFlagClear s
  | .flagToggle => Sys2Proof.Machine.execFlagToggle s
  | .flagScan => Sys2Proof.Machine.execFlagScan s
  | .flagClearRange => Sys2Proof.Machine.execFlagClearRange s
  | .clockSet => Sys2Proof.Machine.execClockSet s
  | .clockRead => Sys2Proof.Machine.execClockRead s
  | .dayStartSet => Sys2Proof.Machine.execDayStartSet s
  | .gameDayRead => Sys2Proof.Machine.execGameDayRead s
  | .advanceCapSet => Sys2Proof.Machine.execAdvanceCapSet s
  | .timerRun => Sys2Proof.Machine.execTimerRun s
  | .timerStop => Sys2Proof.Machine.execTimerStop s
  | .timerClear => Sys2Proof.Machine.execTimerClear s
  | .timerRead => Sys2Proof.Machine.execTimerRead s
  | .eventTake => Sys2Proof.Machine.execEventTake s
  | .eventMaskSet => Sys2Proof.Machine.execEventMaskSet s
  | .sleep => Sys2Proof.Machine.execSleep s
  | .wake => Sys2Proof.Machine.execWake s
  | .supplyRead => Sys2Proof.Machine.execSupplyRead s
  | .lineFetchWord => Sys2Proof.Machine.execLineFetchWord s
  | .lineFetchComplete => Sys2Proof.Machine.execLineFetchComplete s
  | .tableCheck => Sys2Proof.Machine.execTableCheck s
  | .outputSample => Sys2Proof.Machine.execOutputSample s
  | .primeLimit voice => Sys2Proof.Machine.execPrimeLimit voice s
  | .loopReturn voice => Sys2Proof.Machine.execLoopReturn voice s
  | .cueNaturalEnd voice => Sys2Proof.Machine.execCueNaturalEnd voice s
  | .rampEnd voice => Sys2Proof.Machine.execRampEnd voice s
  | .tick => Sys2Proof.Machine.execTick s
  | .stepEnd => Sys2Proof.Machine.execStepEnd s
  | .patternFinished => Sys2Proof.Machine.execPatternFinished s
  | .kickEnd => Sys2Proof.Machine.execKickEnd s
  | .coastStop => Sys2Proof.Machine.execCoastStop s
  | .endBrakeDone => Sys2Proof.Machine.execEndBrakeDone s
  | .postedWriteDrain => Sys2Proof.Machine.execPostedWriteDrain s
  | .flagWordAccess => Sys2Proof.Machine.execFlagWordAccess s
  | .sequencerAccess => Sys2Proof.Machine.execSequencerAccess s
  | .drainingDone => Sys2Proof.Machine.execDrainingDone s
  | .scanDone => Sys2Proof.Machine.execScanDone s
  | .intentDone => Sys2Proof.Machine.execIntentDone s
  | .switchingDone => Sys2Proof.Machine.execSwitchingDone s
  | .closingDone => Sys2Proof.Machine.execClosingDone s
  | .seedDone => Sys2Proof.Machine.execSeedDone s
  | .formatDone => Sys2Proof.Machine.execFormatDone s
  | .verifyDone => Sys2Proof.Machine.execVerifyDone s
  | .recoveryDone => Sys2Proof.Machine.execRecoveryDone s
  | .asleepReached => Sys2Proof.Machine.execAsleepReached s
  | .calendarSecond => Sys2Proof.Machine.execCalendarSecond s
  | .playTimerHundredth => Sys2Proof.Machine.execPlayTimerHundredth s
  | .vccCrossing millivolts => Sys2Proof.Machine.execVccCrossing millivolts s
  | .supplyStateChange change => Sys2Proof.Machine.execSupplyStateChange change s
  | .crstAssert => Sys2Proof.Machine.execCrstAssert s
  | .crstRelease => Sys2Proof.Machine.execCrstRelease s
  | .vbatChange millivolts => Sys2Proof.Machine.execVbatChange millivolts s
  | .coinCellLowChange => Sys2Proof.Machine.execCoinCellLowChange s
  | .retentionLoss => Sys2Proof.Machine.execRetentionLoss s
  | .commandWrite addr value => Sys2Proof.Machine.execCommandWrite addr value s

end Sys2Proof.Machine
end

