-- ==== Sys2Proof/Machine/Step.lean ====
section
/-! DEFINITION. One step of the machine: the command at the front of the queue (log 1). -/

namespace Sys2Proof.Machine

/-- A step: the front command runs on the state with the rest of the queue; with no command waiting the chip idles (log 1). -/
def step (s : State) : Host.Outcome State Fault Refusal :=
  match s.pending with
  | [] => .next s
  | c :: rest => exec c { s with pending := rest }

/-- A command put at the front of the queue. -/
def State.putFront (s : State) (c : Instr) : State := { s with pending := c :: s.pending }

/-- The command that a word spells put at the front of the queue; no word spells one. -/
def State.withFetchWord (s : State) (nbits w : Nat) : State :=
  match decodeTableWord nbits w with
  | some c => s.putFront c
  | none => s

end Sys2Proof.Machine
end

