-- ==== Sys2Proof/Safety.lean ====
section
/-! DEFINITION. What the statements are written with: the chip as a command finds it, the outcome of a command, the frames of
the commands, and the properties every step keeps. -/

namespace Sys2Proof.Machine

/-! ## Outcomes -/

/-- The chip as a command finds it: everything due has happened (log 9). -/
def State.settled (s : State) : Ef24 := s.toEf24.settle

/-- The outcome that is a next state with a given chip, after everything that follows at once (log 11). -/
def State.answering (s : State) (v : Ef24) : Host.Outcome State Fault Refusal := .next { s with toEf24 := v.conclude }

/-- The outcome that is a next state with exactly a given chip. -/
def State.becoming (s : State) (v : Ef24) : Host.Outcome State Fault Refusal := .next { s with toEf24 := v }

/-- Nothing is due: every event that `settle` performs lacks its occasion. -/
def Ef24.nothingDue (u : Ef24) : Bool :=
  !u.rumble.kickEndDue && !u.rumble.coastStopDue && !u.rumble.endBrakeDue && !u.rumble.stepEndDue && !u.rumble.finishDue &&
    voiceNumbers.all (fun i => !(u.sound.voice i).primeDue && !(u.sound.voice i).loopDue && !(u.sound.voice i).endDue &&
      !(u.sound.voice i).rampDue) &&
    !u.save.drainingDue && !u.scanDue && !u.save.intentDue && !u.save.switchingDue && !u.save.closingDue &&
    !u.save.seedDue && !u.save.formatDue && !u.save.verifyDue && !u.save.recoveryDue && !u.sleepDue && !u.sourceLost

/-! ## Console transactions -/

/-- The window of a kind that holds an address, if one does, while the decoder decodes. -/
def Ef24.opensAs (u : Ef24) (addr : Address) (i : Nat) (kind : WindowKind) : Prop :=
  u.coreRunning = true ∧ u.windowOf (blockOf addr) = some i ∧ (u.window i).kindNamed = some kind

/-- The console's reads, each as a command at an address. -/
def readRows (addr : Address) : List Instr :=
  [.romRead addr, .saveStageRead addr, .saveLiveRead addr, .flagsRead addr, .responseRead addr, .statusRead addr]

/-- The console's writes, each as a command of a value at an address. -/
def writeRows (addr : Address) (value : Word) : List Instr :=
  [.bankSelect addr value, .saveStageWrite addr value, .triggerWrite addr value, .ignoredWrite addr value,
    .dataWrite addr value, .commandWrite addr value]

/-! ## Frames -/

/-- The command whose frame a row executes. -/
def frameRow : Command → Instr
  | .statusQuery => .statusQuery
  | .tableRead => .tableRead
  | .loadTable => .loadTable
  | .loadAbort => .loadAbort
  | .actionRun => .actionRun
  | .cuePlay => .cuePlay
  | .voiceStop => .voiceStop
  | .soundStopAll => .soundStopAll
  | .soundVolume => .soundVolume
  | .voiceStatus => .voiceStatus
  | .rumbleStart => .rumbleStart
  | .rumbleCut => .rumbleCut
  | .rumbleEnable => .rumbleEnable
  | .rumbleLimits => .rumbleLimits
  | .rumbleStatus => .rumbleStatus
  | .saveFormat => .saveFormat
  | .slotSeed => .slotSeed
  | .slotCommit => .slotCommit
  | .slotDiscard => .slotDiscard
  | .slotVerify => .slotVerify
  | .slotInfo => .slotInfo
  | .flagTest => .flagTest
  | .flagSet => .flagSet
  | .flagClear => .flagClear
  | .flagToggle => .flagToggle
  | .flagScan => .flagScan
  | .flagClearRange => .flagClearRange
  | .clockSet => .clockSet
  | .clockRead => .clockRead
  | .dayStartSet => .dayStartSet
  | .gameDayRead => .gameDayRead
  | .advanceCapSet => .advanceCapSet
  | .timerRun => .timerRun
  | .timerStop => .timerStop
  | .timerClear => .timerClear
  | .timerRead => .timerRead
  | .eventTake => .eventTake
  | .eventMaskSet => .eventMaskSet
  | .sleep => .sleep
  | .wake => .wake
  | .supplyRead => .supplyRead

/-- A command's frame stands in EXECUTING and passes the first three checks of R34. -/
def Ef24.passes (u : Ef24) (c : Command) : Prop :=
  u.executes c = true ∧ c.accepts u.command.argCount = true ∧ (u.chip = some .asleep → c.takenAsleep = true)

/-! ## What every step keeps -/

/-- The SRAM is in canonical form. -/
def Ef24.sramCanonical (u : Ef24) : Prop := u.sram.wf

/-- The queues hold no more than their places: 16 events, 8 posted writes, 4 queued requests, 8 flag operations from actions
and 1 from the command (R91, R112, R130, R168). -/
def Ef24.queuesFit (u : Ef24) : Prop :=
  u.events.queue.length ≤ 16 ∧ u.save.buffer.length ≤ 8 ∧ u.rumble.queue.length ≤ 4 ∧ u.save.actionOps ≤ 8 ∧
    (u.save.flags.filter (·.fromCommand)).length ≤ 1

/-- The drive strength never exceeds the Drive Ceiling and is 0 while the core does not run, the Guard Strength is below the
Heavy Threshold, and the Power Monitor holds the Heavy Load the Drive gives (R97, R98, R100, R175). -/
def Ef24.driveLimited (u : Ef24) : Prop :=
  (u.coreRunning = true → u.rumble.motor.strength ≤ u.ceiling) ∧
    (u.coreRunning = false → u.rumble.motor.strength = 0) ∧
    u.rumble.guardStrength < u.rumble.heavyThreshold ∧ u.power.heavyLoad = u.rumble.heavyLoad

/-- The chip state agrees with the supply and /CRST: the core runs only in GOOD and LOW with /CRST high, HALTED only in
FAILING, and is held in reset whenever it neither runs nor is HALTED; no internal SRAM access is in progress with the gate
closed (R123, R173, R176 to R179). -/
def Ef24.chipFollowsSupply (u : Ef24) : Prop :=
  (u.coreRunning = true → u.power.supply.powers = true ∧ u.crstLow = false) ∧
    (u.chip = some .halted → u.power.supply = .failing ∧ u.crstLow = false) ∧
    (u.chip = none → u.crstLow = true ∨ u.power.supply.powers = false) ∧
    (u.gateOpen = false → u.save.port = none)

/-- The calendar is a reading of its range, the clock is BEHIND exactly when it reads before the high-water instant, and the
counters are within their ranges (R138). -/
def Calendar.consistent (c : Calendar) : Prop :=
  c.now.exists_ = true ∧ (c.behind = true → c.now.instant < c.high) ∧ (c.behind = false → c.now.instant = c.high) ∧
    c.high ≤ DateTime.last.instant ∧ c.gameDay ≤ 16777215 ∧ c.dayStart ≤ 23 ∧ (1 ≤ c.advanceCap ∧ c.advanceCap ≤ 255) ∧
    c.unreported ≤ 65535 ∧ c.timerSeconds ≤ 4294967295 ∧ c.timerHundredths ≤ 99

end Sys2Proof.Machine
end

