-- ==== Sys2Proof/Certificates/Slice0/Obligations.lean ====
section
/-! DEFINITION. The statements for the provers. In each, `u` is the chip as the command finds it: everything due has happened
(`State.settled`), and `s.answering v` is the next state whose chip is `v` with everything that follows at once
(`Ef24.conclude`). What those two leave alone is stated by SettleAndConcludeTouchOnlyDerived; everything a statement's `v`
does not name is unchanged. -/

open Sys2Proof Sys2Proof.Machine

/-! ## The machine -/

/-- A step runs the front command on the state with the rest of the queue; an empty queue idles (the model's queue: log 1). -/
def Obligations.StepRunsFrontCommand : Prop :=
  (∀ (c : Instr) (s : State), step { s with pending := c :: s.pending } = exec c s) ∧
    ∀ s : State, s.pending = [] → step s = .next s

/-- What the reset leaves, where the spec gives the value (R2, R19, R32, R42, R49, R64, R67, R80, R81, R84, R85, R86, R91, R94,
R97, R109, R112, R125, R126, R130, R140, R158, R172, R173, R178, R179, R184, R185). The model's own: the moment, a first
power-on's core reset that ends after a backup reset, with levels at which no hold timer runs and recovery's first read in
progress (log 2), the number at which the start order count begins again (log 37), and the codes of the fields that are none or
UNUSED (section 13.4). The chip at that moment is what the end of a core reset makes of the core reset values, with the SRAM port
granted. -/
def Obligations.ResetLeavesStatedValues : Prop :=
  let r := State.reset
  (r.window 0).kindNamed = some .rom ∧ (r.window 0).base = 0 ∧ (r.window 0).span = 255 ∧ (r.window 0).romPage = 0 ∧
    (r.window 0).bankCount = 1 ∧ (r.window 0).bankSelect = false ∧
    (∀ i, i < 15 → i ≠ 0 → (r.window i).kindNamed = some .unused) ∧
    (r.window 15).kindNamed = some .control ∧ (r.window 15).base = 255 ∧ (r.window 15).span = 1 ∧
    (∀ i, i < 16 → (r.window i).bank = 0) ∧
    r.romPort = .idle ∧ r.loader = none ∧ r.crstLow = false ∧
    r.command = { state := .idle, frame := [], expected := 0, response := [], taken := 0, protocolError := false } ∧
    (∀ n, n < 64 → (r.action n).kindNamed = some .invalid) ∧
    (∀ n, n < 128 → (r.sound.cue n).isTone = true ∧ (r.sound.cue n).linkedPattern = none ∧ r.sound.cue n =
      { notify := false, priority := 0, volume := 0, format := 0, linked := 255, start := 0, length := 0, loopNone := true,
        loopStart := 0, rate := 0 }) ∧
    (∀ i, i < 6 → (r.sound.voice i).state = .free ∧ (r.sound.voice i).buffer = [] ∧ (r.sound.voice i).next = none ∧
      (r.sound.voice i).underruns = 0 ∧ (r.sound.voice i).linked = false ∧ (r.sound.voice i).play.cue = 0) ∧
    r.sound.nextOrder = 0 ∧ r.sound.masterVolume = 12 ∧ r.sound.aout = 0 ∧
    (∀ p, p < 32 → r.rumble.header p =
      { stepCount := 0, firstStep := 0, notify := false, priority := 0, repeats := 0 }) ∧
    (∀ n, n < 512 → ∃ x, r.rumble.steps[n]? = some x ∧ x.kindNamed = some .drive ∧ x.strength = 0 ∧ x.duration = 0) ∧
    r.rumble.playing = none ∧ r.rumble.queue = [] ∧
    r.rumble.motor = { state := .stopped, strength := 0, kickLeft := 0, coastCount := 0, brakeLeft := 0 } ∧
    r.rumble.enabled = true ∧ r.rumble.guardStrength = 4 ∧ r.rumble.heavyThreshold = 10 ∧
    r.save.volume = .recovering ∧ r.save.sequencer = .recovering (.volumeRecord []) ∧ r.save.buffer = [] ∧ r.save.flags = [] ∧
    r.save.guard = false ∧
    (∀ k, k < 8 → (r.save.slot k).tainted = false ∧ (r.save.slot k).bad = false ∧ (r.save.slot k).phase = .none) ∧
    r.calendar.now = { year := 2000, month := 1, date := 1, hour := 0, minute := 0, second := 0 } ∧
    r.calendar.valid = false ∧ r.calendar.high = 0 ∧ r.calendar.behind = false ∧ r.calendar.gameDay = 0 ∧
    r.calendar.dayStart = 0 ∧ r.calendar.advanceCap = 255 ∧ r.calendar.unreported = 0 ∧ r.calendar.timerSeconds = 0 ∧
    r.calendar.timerHundredths = 0 ∧ r.calendar.timerRunning = false ∧
    (∀ i, i < 16 → (r.entry i).kindNamed = some .unused ∧ r.entry i =
      { kind := 0, enabled := false, wake := false, action := 0, word2 := 0, word3 := 0, pending := false, fired := false }) ∧
    r.events.queue = [] ∧ r.events.overflow = false ∧ r.events.mask = 0 ∧
    r.chip = some .run ∧ r.power.supply = .good ∧ r.power.coinLow = false ∧ r.power.retained = true ∧
    r.power.heavyLoad = false ∧ r.power.holds = [] ∧
    (let ended := ({ r.coreResetValues with chip := none } : Ef24).endReset
     r.toEf24 = { ended with save := { ended.save with port := some .sequencer }, free := r.free })

/-- What is due happens before a command, in the model's order (log 9): the motor's ends, the pattern step, the pattern's end, the
voices in voice order, the Save Controller's ends, ASLEEP, the last source, each with what follows at once from it and each, where
it has a row, as its row makes it. When nothing is due, settling does no more than what follows at once; what follows at once
touches the motor record, Heavy Load and the hold timers, the ROM port and the SRAM port only, and follows only once (the model's
moment: log 11). The Drive follows the Drive Ceiling while the core runs (R97), Heavy Load is what R98 says, the ROM port is what
the orphan mark and the arbiter make of it (R26, R27), and the SRAM port goes on with the access in progress while its claim
stands, else goes to the buffer, a flag operation or the sequencer, in that order, with the gate open (R110, R123, R176; an access
whose operation has ended is dropped: log 11; posted writes drain in a core reset too: log 26). When the sequencer has an access
to make (R110, R114 to R121, R126 to R128), and when something is due (R70, R75, R76, R79, R92, R94, R95, R114 to R121, R128,
R181, R185; when a TONE ends: log 18, the prime limit: log 16, the last source lost: log 28). -/
def Obligations.SettleAndConcludeTouchOnlyDerived : Prop :=
  (∀ u : Ef24,
    (u.nothingDue = true → u.settle = u.conclude) ∧
    u.conclude = { u with
      rumble := { u.rumble with motor := u.conclude.rumble.motor }
      power := { u.power with heavyLoad := u.conclude.power.heavyLoad, holds := u.conclude.power.holds }
      romPort := u.conclude.romPort
      save := { u.save with port := u.conclude.save.port } } ∧
    (u.coreRunning = true → u.conclude.rumble.motor.strength ≤ u.ceiling) ∧
    u.conclude.power.heavyLoad = decide (u.rumble.heavyThreshold ≤ u.conclude.rumble.motor.strength) ∧
    u.conclude.conclude = u.conclude ∧ u.settle.conclude = u.settle ∧
    (u.coreRunning = true → u.conclude.rumble = u.rumble.follow u.ceiling) ∧
    (u.coreRunning = false → u.conclude.rumble = u.rumble) ∧
    u.conclude.romPort = u.updateRomPort.romPort) ∧
  (∀ u : Ef24,
    let gate := u.power.supply = .good ∨ u.power.supply = .low
    let drain := gate ∧ u.save.buffer ≠ []
    let flag := gate ∧ u.coreRunning = true ∧ u.save.flags ≠ []
    let sequencer := gate ∧ u.coreRunning = true ∧ u.save.wants = true
    let goesOn := (u.save.port = some .drain ∧ drain) ∨ (u.save.port = some .flag ∧ flag) ∨
      (u.save.port = some .sequencer ∧ sequencer)
    (goesOn → u.conclude.save.port = u.save.port) ∧
    (¬ goesOn →
      (drain → u.conclude.save.port = some .drain) ∧
      (¬ drain → flag → u.conclude.save.port = some .flag) ∧
      (¬ drain → ¬ flag → sequencer → u.conclude.save.port = some .sequencer) ∧
      (¬ drain → ¬ flag → ¬ sequencer → u.conclude.save.port = none))) ∧
  (∀ x : Save, x.wants = true ↔ match x.sequencer with
    | .formatting _ ws => ws ≠ []
    | .copying k index _ => index < x.slotWords k
    | .scanning _ length index _ => index < length / 2
    | .intent _ _ _ ws => ws ≠ []
    | .switching _ _ _ ws => ws ≠ []
    | .closing _ _ ws => ws ≠ []
    | .verifying k index _ => index < (x.slot k).record.dataLength.toNat / 2
    | .recovering stage => (match stage with
      | .resolving _ _ ws => ws ≠ []
      | .rewriting _ ws => ws ≠ []
      | stage => stage ≠ .finished)
    | .idle => False
    | .formatDraining _ => False
    | .seedDraining _ => False
    | .commitDraining _ _ => False
    | .guarding _ _ _ => False) ∧
  (∀ u : Ef24,
    let m := u.rumble.motor
    let voiceDue (v : Voice) := (v.state = .priming ∧ 656 ≤ v.elapsed) ∨ v.loopDue = true ∨ v.endDue = true ∨
      (v.state = .releasing ∧ 66 ≤ v.elapsed)
    let saveDue := match u.save.sequencer with
      | .formatDraining _ => u.save.buffer = []
      | .seedDraining k => ∀ p ∈ u.save.buffer, p.slot ≠ k
      | .commitDraining k _ => ∀ p ∈ u.save.buffer, p.slot ≠ k
      | .guarding _ _ _ => u.rumble.heavyLoad = false
      | .recovering stage => stage = .finished
      | .idle => False
      | _ => u.save.wants = false
    u.nothingDue = true ↔
      ¬ (m.state = .kick ∧ m.kickLeft = 0) ∧ ¬ (m.state = .coasting ∧ 16 ≤ m.coastCount) ∧
      ¬ (m.state = .braking ∧ m.brakeLeft = 0 ∧ u.rumble.playing = none) ∧
      (∀ p, u.rumble.playing = some p → p.ticksLeft ≠ 0) ∧
      (∀ i, i < 6 → ¬ voiceDue (u.sound.voice i)) ∧ ¬ saveDue ∧
      ¬ (u.chip = some .enteringSleep ∧ u.loader = none ∧ u.save.sequencer = .idle ∧ u.save.buffer = [] ∧
        m.state = .stopped ∧ ∀ i, i < 6 → (u.sound.voice i).state = .free) ∧
      ¬ (u.power.retained = true ∧ u.power.supply ≠ .good ∧ u.power.supply ≠ .low ∧ u.power.vbat = none)) ∧
  ∀ s : State,
    let u := s.toEf24
    let m := u.rumble.motor
    let q := u.save.sequencer
    let happens (before : Ef24) (due : Prop) (row : Instr) (after : Ef24) :=
      (before.coreRunning = true → due → exec row s = s.becoming after) ∧
        (¬ (before.coreRunning = true ∧ due) → after = before)
    let atEnd (x : Ef24) (p : Playing) :=
      (x.rumble.header p.request.pattern).stepCount.toNat ≤ p.step + 1 ∧ p.playsLeft = some 0
    let voiced := (List.range 6).foldl (fun x i => (((x.primeLimit i).loopReturn i).naturalEnd i).rampEnd i)
      u.motorEnds.stepEnd.patternFinished
    u.settle = u.settleBlocks.asleepReached.sourceCheck.conclude ∧
    u.settleBlocks = voiced.drainingDone.scanDone.intentDone.switchingDone.closingDone.seedDone.formatDone.verifyDone.recoveryDone ∧
    u.motorEnds = u.kickEnd.coastStop.endBrakeDone ∧ u.motorEnds.stepEnd.motorEnds = u.motorEnds.stepEnd ∧
    happens u (m.state = .kick ∧ m.kickLeft = 0) .kickEnd u.kickEnd ∧
    happens u (m.state = .coasting ∧ 16 ≤ m.coastCount) .coastStop u.coastStop ∧
    happens u (m.state = .braking ∧ m.brakeLeft = 0 ∧ u.rumble.playing = none) .endBrakeDone u.endBrakeDone ∧
    (let x := u.motorEnds
     happens x (∃ p, x.rumble.playing = some p ∧ p.ticksLeft = 0 ∧ ¬ atEnd x p) .stepEnd x.stepEnd ∧
     happens x (∃ p, x.rumble.playing = some p ∧ p.ticksLeft = 0 ∧ atEnd x p) .patternFinished x.patternFinished) ∧
    (∀ i, i < 6 →
      let v := u.sound.voice i
      (u.coreRunning = true → v.state = .priming → 656 ≤ v.elapsed →
        u.primeLimit i = (u.onVoice Voice.primeLimit i).conclude) ∧
      (¬ (u.coreRunning = true ∧ v.state = .priming ∧ 656 ≤ v.elapsed) → u.primeLimit i = u) ∧
      happens u (v.loopDue = true) (.loopReturn i) (u.loopReturn i) ∧
      happens u (v.endDue = true) (.cueNaturalEnd i) (u.naturalEnd i) ∧
      happens u (v.state = .releasing ∧ 66 ≤ v.elapsed) (.rampEnd i) (u.rampEnd i)) ∧
    happens u ((∃ sizes, q = .formatDraining sizes ∧ u.save.buffer = []) ∨
      ∃ k, (q = .seedDraining k ∨ ∃ length, q = .commitDraining k length) ∧ ∀ p ∈ u.save.buffer, p.slot ≠ k)
      .drainingDone u.drainingDone ∧
    happens u ((∃ k length index crc, q = .scanning k length index crc ∧ length / 2 ≤ index) ∨
      ((∃ k length crc, q = .guarding k length crc) ∧ u.rumble.heavyLoad = false)) .scanDone u.scanDone ∧
    happens u (∃ commit k r, q = .intent commit k r []) .intentDone u.intentDone ∧
    happens u (∃ commit k r, q = .switching commit k r []) .switchingDone u.switchingDone ∧
    happens u (∃ commit k, q = .closing commit k []) .closingDone u.closingDone ∧
    happens u (∃ k index held, q = .copying k index held ∧ u.save.slotWords k ≤ index) .seedDone u.seedDone ∧
    happens u (∃ sizes, q = .formatting sizes []) .formatDone u.formatDone ∧
    happens u (∃ k index crc, q = .verifying k index crc ∧ (u.save.slot k).record.dataLength.toNat / 2 ≤ index)
      .verifyDone u.verifyDone ∧
    happens u (q = .recovering .finished) .recoveryDone u.recoveryDone ∧
    (let x := u.settleBlocks
     happens x (x.chip = some .enteringSleep ∧ x.loader = none ∧ x.save.sequencer = .idle ∧ x.save.buffer = [] ∧
       x.rumble.motor.state = .stopped ∧ ∀ i, i < 6 → (x.sound.voice i).state = .free) .asleepReached x.asleepReached) ∧
    (let lost := u.power.retained = true ∧ u.power.supply ≠ .good ∧ u.power.supply ≠ .low ∧ u.power.vbat = none
     (lost → ∃ writes : List (Nat × Word),
       u.sourceCheck = { u with
         sram := u.sram.writeAll writes, power := { u.power with retained := false }, free := u.free + 1 } ∧
       ∀ x ∈ writes, x.1 < 512 * Config.sramKiB u.sramCode) ∧
     (¬ lost → u.sourceCheck = u))

/-- A post joins the back of the queue with the calendar's stamp, or is dropped with the overflow flag set (R155, R167, R168);
several posts are made in order, and CMD_DONE carries its command, status and item (R39, section 13.3). The codes of the event
kinds, the statuses and the sources (sections 13.2, 13.3). -/
def Obligations.PostJoinsOrOverflows : Prop :=
  (∀ (u : Ef24) (kind : EventKind) (index detail : Nat),
    (u.events.queue.length < 16 →
      u.post kind index detail = { u with events := { u.events with
        queue := u.events.queue ++
          [{ kind := kind, index := BitVec.ofNat 8 index, detail := BitVec.ofNat 16 detail,
             stamp := if u.calendar.valid = true then BitVec.ofNat 16 (u.calendar.now.hour * 60 + u.calendar.now.minute)
               else 0xFFFF }] } }) ∧
    (16 ≤ u.events.queue.length → u.post kind index detail = { u with events := { u.events with overflow := true } })) ∧
  (∀ u : Ef24, u.postAll [] = u) ∧
  (∀ (u : Ef24) (p : Posting) (ps : List Posting), u.postAll (p :: ps) = (u.post p.1 p.2.1 p.2.2).postAll ps) ∧
  (∀ (u : Ef24) (c : Command) (status : Status) (item : Nat),
    u.postDone c status item = u.post .cmdDone c.opcode (status.code * 1024 + item % 1024)) ∧
  [EventKind.cmdDone, .cueEnd, .cueRefused, .underrun, .rumbleEnd, .rumbleCut, .rumbleRefused, .bankFault, .triggerFault,
    .actionFault, .saveFault, .recovery, .dayRollover, .clockBehind, .clockCaughtUp, .schedule, .supply, .user].map
      EventKind.code = List.range 18 ∧
  [Status.ok, .accepted, .badOpcode, .badLength, .badArg, .outOfRange, .busy, .notReady, .asleep, .noVoice, .tainted,
    .disabled, .windowsOpen, .refusedEntry, .crcBad, .aborted, .disturbed].map Status.code =
      [0x00, 0x01, 0x10, 0x11, 0x12, 0x13, 0x14, 0x15, 0x16, 0x20, 0x21, 0x22, 0x23, 0x30, 0x31, 0x32, 0x33] ∧
  [DispatchSource.trigger, .schedule, .command].map DispatchSource.code = [0, 1, 2] ∧
  [RumbleSource.action, .command, .cueLink].map RumbleSource.code = [0, 1, 2]

/-! ## What every step keeps -/

/-- Every step keeps the SRAM canonical: the model's form of a memory, addresses rising and no 0000h word listed (the model's
choice, not the spec's: log 3). -/
def Obligations.StepKeepsSramCanonical : Prop :=
  ∀ s t : State, s.sramCanonical → step s = .next t → t.sramCanonical

/-- Every step keeps the queues within their places (R91, R112, R130, R168). -/
def Obligations.StepKeepsQueuesWithinPlaces : Prop :=
  ∀ s t : State, s.queuesFit → step s = .next t → t.queuesFit

/-- Every step keeps the drive strength within the Drive Ceiling (R97, R98), and Heavy Load is then clear while the Commit
Guard is raised. -/
def Obligations.StepKeepsDriveWithinCeiling : Prop :=
  (∀ s t : State, s.driveLimited → step s = .next t → t.driveLimited) ∧
    ∀ u : Ef24, u.driveLimited → u.coreRunning = true → u.save.guard = true → u.rumble.heavyLoad = false

/-- Every step keeps the chip state in agreement with the supply and /CRST (R173, R176 to R179). -/
def Obligations.StepKeepsChipWithSupply : Prop :=
  ∀ s t : State, s.chipFollowsSupply → step s = .next t → t.chipFollowsSupply

/-- Every step keeps the calendar and its high-water instant consistent (R138). -/
def Obligations.StepKeepsCalendarConsistent : Prop :=
  ∀ s t : State, s.calendar.consistent → step s = .next t → t.calendar.consistent

/-- What every step keeps holds at the reset: the SRAM's form is the model's choice (log 3), and so is the moment State.reset
stands for (log 2). -/
def Obligations.ResetHasWhatStepsKeep : Prop :=
  State.reset.sramCanonical ∧ State.reset.queuesFit ∧ State.reset.driveLimited ∧ State.reset.chipFollowsSupply ∧
    State.reset.calendar.consistent

/-! ## Console transactions (Chapters 1 to 3, 7, 8) -/

/-- A console read in a ROM window gives the ROM word of the current bank and leaves the ROM port free, a line fetch in flight
abandoned (R5, R20, R21). The block and the word offset of an address, and the window that holds a block: the one entry in use whose
blocks it is in (R1, R3). -/
def Obligations.RomReadGivesBankWord : Prop :=
  (∀ (s : State) (addr : Address) (i : Nat),
    let u := s.settled
    let e := u.window i
    u.opensAs addr i .rom →
      exec (.romRead addr) s = s.answering { u with
        readData := u.rom.read (2048 * (e.romPage + e.bank * e.span) + (addr.toNat - 4096 * e.base.toNat) / 2)
        romPort := .idle }) ∧
  (∀ (addr : Address) (e : WindowEntry),
    blockOf addr = addr.toNat / 4096 ∧ e.wordOffset addr = (addr.toNat - 4096 * e.base.toNat) / 2) ∧
  ∀ (u : Ef24) (block : Nat),
    let holds (i : Nat) := i < 16 ∧ (u.window i).kindNamed ≠ some .unused ∧
      (u.window i).base.toNat ≤ block ∧ block < (u.window i).base.toNat + (u.window i).span
    (∀ i, u.windowOf block = some i ↔ holds i ∧ ∀ j, holds j → i ≤ j) ∧ (u.windowOf block = none ↔ ∀ j, ¬ holds j)

/-- Console reads in SAVE_STAGE, SAVE_LIVE and FLAGS windows give the newest posted data, else the SRAM word, and take the
SRAM port; past the image, for an EMPTY slot's live view and past the flag page they give FFFFh (R7, R9, R10, R110, R113), and that
a read which gives FFFFh leaves the SRAM port as it is is the model's choice (log 41). Where a slot's images lie (R104), which image
each view shows (R108), and the newest matching entry (R113). -/
def Obligations.SaveAndFlagReadsServe : Prop :=
  (∀ (s : State) (addr : Address) (i : Nat),
    let u := s.settled
    let e := u.window i
    let d := (addr.toNat - 4096 * e.base.toNat) / 2
    let served (a : Nat) : Ef24 := { u with
      readData := (newestPosted u.save.buffer a).getD (u.sram.read a), save := { u.save with port := none } }
    (u.opensAs addr i .saveStage →
      exec (.saveStageRead addr) s = s.answering
        (if d < u.save.slotWords e.slot then served (u.save.stagingBase e.slot + d) else { u with readData := 0xFFFF })) ∧
    (u.opensAs addr i .saveLive →
      exec (.saveLiveRead addr) s = s.answering
        (if (u.save.slot e.slot).record.valid = true ∧ d < u.save.slotWords e.slot then
          served (u.save.liveBase e.slot + d) else { u with readData := 0xFFFF })) ∧
    (u.opensAs addr i .flags →
      exec (.flagsRead addr) s = s.answering
        (if d < 256 then { u with readData := u.sram.read (256 + d), save := { u.save with port := none } }
          else { u with readData := 0xFFFF }))) ∧
  (∀ (x : Save) (k : Nat),
    let first := 512 + 1024 * (x.sizes.take k).sum
    x.slotWords k = 512 * x.sizes.getD k 0 ∧ imageBase x.sizes k .a = first ∧
      imageBase x.sizes k .b = first + 512 * x.sizes.getD k 0 ∧
      x.stagingBase k = imageBase x.sizes k (x.slot k).stagingImage ∧
      x.liveBase k = imageBase x.sizes k (x.slot k).record.live) ∧
  (∀ x : Slot,
    (x.phase = .none → x.record.valid = false → x.stagingImage = .a) ∧
    (x.phase = .none → x.record.valid = true → x.record.live = .a → x.stagingImage = .b) ∧
    (x.phase = .none → x.record.valid = true → x.record.live = .b → x.stagingImage = .a) ∧
    ∀ view, x.phase = .intentWritten view → x.stagingImage = view) ∧
  ∀ (buffer : List Posted) (a : Nat),
    ((∀ p ∈ buffer, p.address ≠ a) → newestPosted buffer a = none) ∧
    ∀ older p newer, buffer = older ++ p :: newer → p.address = a → (∀ q ∈ newer, q.address ≠ a) →
      newestPosted buffer a = some p.data

/-- A console write in a ROM window selects the bank, faults, or is ignored; in a TRIGGER window it dispatches, faults, or is
ignored outside RUN (R6, R11). -/
def Obligations.BankAndTriggerWrites : Prop :=
  ∀ (s : State) (addr : Address) (value : Word) (i : Nat),
    let u := s.settled
    let e := u.window i
    (u.opensAs addr i .rom →
      exec (.bankSelect addr value) s = s.answering
        (if e.bankSelect = false then u
          else if value.toNat < e.bankCount then
            { u with windows := u.windows.setIfInBounds i { e with bank := value.toNat } }
          else u.post .bankFault i value.toNat)) ∧
    (u.opensAs addr i .trigger →
      exec (.triggerWrite addr value) s = s.answering
        (if u.chip ≠ some .run then u
          else if value.toNat < e.actionCount then u.dispatch .trigger (e.actionBase + value.toNat)
          else u.post .triggerFault i value.toNat))

/-- A console write in a SAVE_STAGE window: past the image ignored; dropped and Tainted in the later steps of a commit or
discard of the slot; a commit or seed of the slot ended DISTURBED first; a full buffer overruns; otherwise posted (R8, R112,
R115, R119, R120; an access of the ended operation is dropped: the model's reading, log 11). -/
def Obligations.StageWritePostsOrDrops : Prop :=
  ∀ (s : State) (addr : Address) (value : Word) (i : Nat),
    let u := s.settled
    let k := (u.window i).slot
    let d := (addr.toNat - 4096 * (u.window i).base.toNat) / 2
    let q := u.save.sequencer
    let tainted (v : Ef24) : Ef24 :=
      { v with save := { v.save with slots := v.save.slots.setIfInBounds k { v.save.slot k with tainted := true } } }
    let posted (v : Ef24) : Ef24 :=
      if 8 ≤ v.save.buffer.length then (tainted v).post .saveFault k 0
      else { v with save := { v.save with
        buffer := v.save.buffer ++ [{ address := v.save.stagingBase k + d, data := value, slot := k }] } }
    let later := (∃ commit r ws, q = .intent commit k r ws) ∨ (∃ commit r ws, q = .switching commit k r ws) ∨
      ∃ commit ws, q = .closing commit k ws
    let earlier := (∃ length, q = .commitDraining k length) ∨ (∃ length index crc, q = .scanning k length index crc) ∨
      ∃ length crc, q = .guarding k length crc
    let seeding := q = .seedDraining k ∨ ∃ index held, q = .copying k index held
    u.opensAs addr i .saveStage →
      (u.save.slotWords k ≤ d → exec (.saveStageWrite addr value) s = s.answering u) ∧
      (d < u.save.slotWords k →
        (later → exec (.saveStageWrite addr value) s = s.answering (tainted u)) ∧
        (earlier → exec (.saveStageWrite addr value) s = s.answering
          (posted ({ u with save := { u.save with sequencer := .idle, guard := false } }.postDone .slotCommit .disturbed k))) ∧
        (seeding → exec (.saveStageWrite addr value) s = s.answering
          (posted (tainted ({ u with save := { u.save with sequencer := .idle } }.postDone .slotSeed .disturbed k)))) ∧
        (¬ later → ¬ earlier → ¬ seeding → exec (.saveStageWrite addr value) s = s.answering (posted u)))

/-- Writes that are ignored: to an unmapped block, in SAVE_LIVE and FLAGS windows, in a ROM window without bank-select, and to
RESPONSE, STATUS, PEEK or beyond byte 9 of the aperture (R3, R6, R9, R10, R12). Reads that give FFFFh and change nothing else: of an
unmapped block, in a TRIGGER window, of COMMAND and DATA and beyond byte 9 of the aperture (R3, R11, R12). -/
def Obligations.IgnoredWritesChangeNothing : Prop :=
  (∀ (s : State) (addr : Address) (value : Word),
    let u := s.settled
    let unmapped := u.coreRunning = true ∧ u.windowOf (blockOf addr) = none
    let readOnly := ∃ i, u.opensAs addr i .saveLive ∨ u.opensAs addr i .flags ∨
      (u.opensAs addr i .rom ∧ (u.window i).bankSelect = false)
    let noPort := ∃ i, u.opensAs addr i .control ∧ (u.window i).wordOffset addr ≠ 0 ∧ (u.window i).wordOffset addr ≠ 3
    (unmapped ∨ readOnly ∨ noPort) → exec (.ignoredWrite addr value) s = s.answering u) ∧
  ∀ (s : State) (addr : Address),
    let u := s.settled
    let unmapped := u.coreRunning = true ∧ u.windowOf (blockOf addr) = none
    let trigger := ∃ i, u.opensAs addr i .trigger
    let noPort := ∃ i, u.opensAs addr i .control ∧
      ((u.window i).wordOffset addr = 0 ∨ (u.window i).wordOffset addr = 3 ∨ 5 ≤ (u.window i).wordOffset addr)
    (unmapped ∨ trigger ∨ noPort) → ∀ c ∈ readRows addr, exec c s = s.answering { u with readData := 0xFFFF }

/-- While the core is held in reset or HALTED every read gives FFFFh and every write is ignored (R4); the core runs in RUN,
ENTERING_SLEEP and ASLEEP (R142). -/
def Obligations.HeldCoreDecodesNothing : Prop :=
  (∀ (s : State) (addr : Address) (value : Word),
    s.settled.coreRunning = false →
      (∀ c ∈ readRows addr, exec c s = s.answering { s.settled with readData := 0xFFFF }) ∧
        ∀ c ∈ writeRows addr value, exec c s = s.answering s.settled) ∧
  ∀ u : Ef24, u.coreRunning = true ↔ u.chip = some .run ∨ u.chip = some .enteringSleep ∨ u.chip = some .asleep

/-- A write to COMMAND: header, argument, protocol error, or a discarded response and a header (R33). -/
def Obligations.CommandWriteCollectsFrame : Prop :=
  ∀ (s : State) (addr : Address) (value : Word) (i : Nat),
    let u := s.settled
    let count := value.toNat % 256
    let header : CommandUnit := { u.command with
      state := if 1 ≤ count ∧ count ≤ 31 then .collecting else .executing
      frame := [value], expected := if 1 ≤ count ∧ count ≤ 31 then count else 0, response := [], taken := 0 }
    u.opensAs addr i .control → (u.window i).wordOffset addr = 0 →
      (u.command.state = .idle ∨ u.command.state = .responding →
        exec (.commandWrite addr value) s = s.answering { u with command := header }) ∧
      (u.command.state = .collecting →
        exec (.commandWrite addr value) s = s.answering { u with command := { u.command with
          state := if u.command.expected ≤ 1 then .executing else .collecting
          frame := u.command.frame ++ [value], expected := u.command.expected - 1 } }) ∧
      (u.command.state = .executing →
        exec (.commandWrite addr value) s = s.answering { u with command := { u.command with protocolError := true } })

/-- A read of RESPONSE gives the next unread word and marks it read, the last one ending RESPONDING; outside RESPONDING it
gives FFFFh and changes nothing (R35). A read of PEEK marks nothing: the table has no row for it, and the model serves it with
the read row of its address (log 6, log 39). -/
def Obligations.ResponseReadPops : Prop :=
  ∀ (s : State) (addr : Address) (i : Nat),
    let u := s.settled
    let c := u.command
    let next := c.response.getD c.taken 0xFFFF
    u.opensAs addr i .control →
      ((u.window i).wordOffset addr = 1 → c.state = .responding → c.taken + 1 < c.response.length →
        exec (.responseRead addr) s = s.answering { u with readData := next, command := { c with taken := c.taken + 1 } }) ∧
      ((u.window i).wordOffset addr = 1 → c.state = .responding → c.response.length ≤ c.taken + 1 →
        exec (.responseRead addr) s = s.answering
          { u with readData := next, command := { c with state := .idle, response := [], taken := 0 } }) ∧
      ((u.window i).wordOffset addr = 4 → c.state = .responding →
        exec (.responseRead addr) s = s.answering { u with readData := next }) ∧
      ((u.window i).wordOffset addr = 1 ∨ (u.window i).wordOffset addr = 4 → c.state ≠ .responding →
        exec (.responseRead addr) s = s.answering { u with readData := 0xFFFF })

/-- A read of STATUS gives the status word, its fields and their codes as section 13.1 has them, and clears the protocol-error flag
(R36, R37). -/
def Obligations.StatusReadReportsAndClears : Prop :=
  (∀ (s : State) (addr : Address) (i : Nat),
    let u := s.settled
    u.opensAs addr i .control → (u.window i).wordOffset addr = 2 → u.events.queue.length ≤ 16 →
      ∃ w : Word,
        exec (.statusRead addr) s = s.answering
          { u with readData := w, command := { u.command with protocolError := false } } ∧
        w = u.statusWord ∧
        w.getLsbD 15 = u.power.coinLow ∧ w.getLsbD 14 = u.loader.isSome ∧ Field.get w 12 2 = u.save.volume.code ∧
        w.getLsbD 11 = (u.power.supply == .low) ∧ Field.get w 9 2 = chipCode u.chip ∧
        w.getLsbD 8 = u.command.protocolError ∧ w.getLsbD 7 = u.events.overflow ∧
        Field.get w 2 5 = u.events.queue.length ∧ Field.get w 0 2 = u.command.state.code) ∧
  [CommandState.idle, .collecting, .executing, .responding].map CommandState.code = [0, 1, 2, 3] ∧
  [VolumeState.unformatted, .recovering, .ready].map VolumeState.code = [0, 1, 2] ∧
  [some ChipState.run, some .enteringSleep, some .asleep].map chipCode = [0, 1, 2]

/-- A write to DATA is the next image word of a RECEIVING load, the last one starting CHECKING; otherwise it is discarded and
sets the protocol-error flag (R43). -/
def Obligations.DataWriteFeedsLoad : Prop :=
  ∀ (s : State) (addr : Address) (value : Word) (i : Nat),
    let u := s.settled
    u.opensAs addr i .control → (u.window i).wordOffset addr = 3 →
      (∀ l, u.loader = some l → l.phase = .receiving →
        exec (.dataWrite addr value) s = s.answering { u with loader := some { l with
          staged := if l.staged.length < l.count * l.table.entrySize then l.staged ++ [value] else l.staged
          phase := if l.count * l.table.entrySize ≤ l.staged.length + 1 then .checking else .receiving } }) ∧
      ((∀ l, u.loader = some l → l.phase ≠ .receiving) →
        exec (.dataWrite addr value) s = s.answering { u with command := { u.command with protocolError := true } })

/-! ## Frames (Chapter 3): the checks, and the commands of the Command Unit, Table Loader and Action Dispatcher -/

/-- A frame in EXECUTING: an opcode that names no command is answered BAD_OPCODE; a wrong argument count BAD_LENGTH; in ASLEEP
a command not taken there ASLEEP, in that order and with the header alone; an answer stands in the Response Buffer, header
first, with the state RESPONDING (R34, R38, section 13.1). Each command's opcode and argument counts, and which are taken in ASLEEP
(R38, section 13.2). Where a frame's opcode, argument count and arguments stand, and when a frame waits to be carried out (R32, R33,
R132). -/
def Obligations.FrameChecksInOrder : Prop :=
  (∀ s : State,
    let u := s.settled
    (u.frameWaits = true → (∀ c : Command, c.opcode ≠ u.command.opcode) →
      exec .badOpcode s = s.answering (u.respond .badOpcode [])) ∧
    ∀ c : Command, u.executes c = true →
      (c.accepts u.command.argCount = false → exec (frameRow c) s = s.answering (u.respond .badLength [])) ∧
      (c.accepts u.command.argCount = true → u.chip = some .asleep → c.takenAsleep = false →
        exec (frameRow c) s = s.answering (u.respond .asleep []))) ∧
  (∀ (u : Ef24) (status : Status) (results : List Word), results.length ≤ 31 →
    u.respond status results = { u with command := { u.command with
      state := .responding, frame := [], expected := 0, taken := 0
      response := BitVec.ofNat 16 (status.code * 256 + results.length) :: results } }) ∧
  (∀ x ∈
      [(Command.statusQuery, 0x01, 0, 0), (.tableRead, 0x02, 3, 3), (.loadTable, 0x03, 5, 5), (.loadAbort, 0x04, 0, 0),
        (.actionRun, 0x08, 1, 1), (.cuePlay, 0x10, 1, 2), (.voiceStop, 0x11, 1, 1), (.soundStopAll, 0x12, 0, 0),
        (.soundVolume, 0x13, 1, 1), (.voiceStatus, 0x14, 0, 0), (.rumbleStart, 0x18, 1, 2), (.rumbleCut, 0x19, 0, 0),
        (.rumbleEnable, 0x1A, 1, 1), (.rumbleLimits, 0x1B, 2, 2), (.rumbleStatus, 0x1C, 0, 0), (.saveFormat, 0x20, 2, 9),
        (.slotSeed, 0x21, 1, 1), (.slotCommit, 0x22, 2, 2), (.slotDiscard, 0x23, 1, 1), (.slotVerify, 0x24, 1, 1),
        (.slotInfo, 0x25, 1, 1), (.flagTest, 0x28, 1, 1), (.flagSet, 0x29, 1, 1), (.flagClear, 0x2A, 1, 1),
        (.flagToggle, 0x2B, 1, 1), (.flagScan, 0x2C, 3, 3), (.flagClearRange, 0x2D, 2, 2), (.clockSet, 0x30, 6, 6),
        (.clockRead, 0x31, 0, 0), (.dayStartSet, 0x32, 1, 1), (.gameDayRead, 0x33, 0, 0), (.advanceCapSet, 0x34, 1, 1),
        (.timerRun, 0x35, 0, 0), (.timerStop, 0x36, 0, 0), (.timerClear, 0x37, 0, 0), (.timerRead, 0x38, 0, 0),
        (.eventTake, 0x40, 1, 1), (.eventMaskSet, 0x41, 2, 2), (.sleep, 0x48, 0, 0), (.wake, 0x49, 0, 0),
        (.supplyRead, 0x4A, 0, 0)],
    x.1.opcode = x.2.1 ∧ ∀ n, x.1.accepts n = true ↔ x.2.2.1 ≤ n ∧ n ≤ x.2.2.2) ∧
  (∀ c : Command, c.takenAsleep = true ↔
    c ∈ [Command.wake, .statusQuery, .eventTake, .eventMaskSet, .clockRead, .gameDayRead, .supplyRead, .slotInfo]) ∧
  ∀ u : Ef24,
    let header := (u.command.frame.getD 0 0).toNat
    u.command.opcode = header / 256 ∧ u.command.argCount = header % 256 ∧
    (∀ i, u.arg i = (u.command.frame.getD (i + 1) 0).toNat) ∧
    (u.frameWaits = true ↔ u.coreRunning = true ∧ u.command.state = .executing ∧
      ∀ op ∈ u.save.flags, op.fromCommand = false) ∧
    ∀ c : Command, u.executes c = true ↔ u.frameWaits = true ∧ u.command.opcode = c.opcode

/-- STATUS QUERY answers OK with the status word, the strap word, and the image words received and needed (R41). -/
def Obligations.StatusQueryAnswersFourWords : Prop :=
  ∀ s : State,
    let u := s.settled
    u.passes .statusQuery →
      exec .statusQuery s = s.answering (u.respond .ok
        [ u.statusWord,
          BitVec.ofNat 16 (16 * u.sramCode.toNat + u.romCode.toNat),
          BitVec.ofNat 16 (match u.loader with | some l => l.staged.length | none => 0),
          BitVec.ofNat 16 (match u.loader with | some l => l.count * l.table.entrySize | none => 0) ])

/-- TABLE READ refuses or answers with the images of as many entries as fit in 31 words (R48). -/
def Obligations.TableReadAnswersImages : Prop :=
  ∀ s : State,
    let u := s.settled
    u.passes .tableRead →
      (tableOfId (u.arg 0) = none ∨ u.arg 2 = 0 → exec .tableRead s = s.answering (u.respond .badArg [])) ∧
      (∀ t : TableId, tableOfId (u.arg 0) = some t → u.arg 2 ≠ 0 →
        (t.entries < u.arg 1 + u.arg 2 → exec .tableRead s = s.answering (u.respond .outOfRange [])) ∧
        (u.arg 1 + u.arg 2 ≤ t.entries →
          exec .tableRead s = s.answering (u.respond .ok
            ((List.range (min (u.arg 2) (31 / t.entrySize))).flatMap (fun k => u.entryImage t (u.arg 1 + k))))))

/-- LOAD TABLE's checks in their order, and an accepted load's record (R42). -/
def Obligations.LoadTableStartsLoad : Prop :=
  ∀ s : State,
    let u := s.settled
    let fromRom := u.arg 3 % 256 = 1
    let address := u.arg 3 / 256 * 65536 + u.arg 4
    let load (t : TableId) : Load :=
      { phase := if fromRom then .fetching else .receiving, table := t, first := u.arg 1, count := u.arg 2,
        source := if fromRom then some address else none, staged := [] }
    u.passes .loadTable →
      (u.chip = some .enteringSleep → exec .loadTable s = s.answering (u.respond .asleep [])) ∧
      (u.chip ≠ some .enteringSleep → tableOfId (u.arg 0) = none ∨ 2 ≤ u.arg 3 % 256 ∨ u.arg 2 = 0 →
        exec .loadTable s = s.answering (u.respond .badArg [])) ∧
      (∀ t : TableId, u.chip ≠ some .enteringSleep → tableOfId (u.arg 0) = some t → u.arg 3 % 256 < 2 → u.arg 2 ≠ 0 →
        exec .loadTable s = s.answering
          (if t.entries < u.arg 1 + u.arg 2 then u.respond .outOfRange []
            else if fromRom ∧ 2048 * Config.romPages u.romCode < address + u.arg 2 * t.entrySize then u.respond .outOfRange []
            else if u.loader ≠ none then u.respond .busy []
            else { u with loader := some (load t) }.respond .accepted []))

/-- LOAD ABORT ends a RECEIVING or FETCHING load ABORTED and answers 1; otherwise it changes nothing and answers 0 (R46). -/
def Obligations.LoadAbortEndsOpenLoad : Prop :=
  ∀ s : State,
    let u := s.settled
    u.passes .loadAbort →
      (∀ l, u.loader = some l → l.phase = .receiving ∨ l.phase = .fetching →
        exec .loadAbort s = s.answering
          (({ u with loader := none }.postDone .loadTable .aborted 0).respond .ok [1])) ∧
      ((∀ l, u.loader = some l → l.phase = .checking) → exec .loadAbort s = s.answering (u.respond .ok [0]))

/-- ACTION RUN refuses, or dispatches with source COMMAND and answers OK (R60). -/
def Obligations.ActionRunDispatches : Prop :=
  ∀ s : State,
    let u := s.settled
    u.passes .actionRun →
      exec .actionRun s = s.answering
        (if 64 ≤ u.arg 0 then u.respond .outOfRange []
          else if u.chip = some .enteringSleep then u.respond .asleep []
          else (u.dispatch .command (u.arg 0)).respond .ok [])

/-- A dispatch walks its chain: INVALID ends it with a fault, faulting operands post a fault and the chain goes on, a fifth
link posts CHAIN (R54, R55, R58, R59). Each kind faults on its own operands (R55; a FLAG_CLEAR_RANGE without operand B faults:
the model's choice, log 40) and hands its own request on, a sound request's fetch reaching the ROM port before the chain goes
on (R26, R50, R57, R68, R89, R135). -/
def Obligations.DispatchWalksChain : Prop :=
  (∀ (u : Ef24) (source : DispatchSource) (first n left : Nat),
    let detail (cause : Nat) : Nat := cause * 16384 + source.code * 4096 + first % 64
    u.dispatch source first = Ef24.walk source first 4 first u ∧
    Ef24.walk source first 0 n u = u.post .actionFault n (detail 2) ∧
    ((u.action n).kindNamed = none ∨ (u.action n).kindNamed = some .invalid →
      Ef24.walk source first (left + 1) n u = u.post .actionFault n (detail 0)) ∧
    ∀ kind, (u.action n).kindNamed = some kind → kind ≠ .invalid →
      let after := if (u.action n).operandsFault kind = true then u.post .actionFault n (detail 1)
        else u.request n (u.action n) kind
      Ef24.walk source first (left + 1) n u =
        if (u.action n).next = 0xFFFF then after else Ef24.walk source first left (u.action n).next.toNat after) ∧
  (∀ e : ActionEntry,
    let a := e.operandA.toNat
    let b := e.operandB.toNat
    (e.operandsFault .playCue = true ↔ 128 ≤ a) ∧ (e.operandsFault .stopCue = true ↔ 128 ≤ a) ∧
    (e.operandsFault .rumble = true ↔ 32 ≤ a) ∧ (e.operandsFault .flagSet = true ↔ 4096 ≤ a) ∧
    (e.operandsFault .flagClear = true ↔ 4096 ≤ a) ∧
    (e.operandsFault .flagClearRange = true ↔ 4096 ≤ a ∨ b = 0 ∨ 4096 < a + b) ∧
    ∀ kind ∈ [ActionKind.silence, .rumbleCut, .post], e.operandsFault kind = false) ∧
  ∀ (u : Ef24) (n : Nat) (e : ActionEntry),
    let a := e.operandA.toNat
    let raise (own : Nat) : Nat := if e.operandB = 0xFFFF then own else max own e.operandB.toNat
    let cue := u.sound.cue a
    let play : Play := { cue := a, entry := cue, priority := raise cue.priority.toNat, order := u.sound.nextOrder }
    let refused (detail : Nat) : Ef24 := (u.post .cueRefused a detail).updateRomPort
    let placed (i : Nat) (v : Voice) (asks : List SoundEffect) : Ef24 :=
      (u.withSound ({ u.sound with voices := u.sound.voices.setIfInBounds i v, nextOrder := u.sound.nextOrder + 1 },
        asks)).updateRomPort
    let flag (kind : FlagKind) (count : Nat) : Ef24 :=
      if u.save.volume ≠ .ready then u.post .saveFault n 4096
      else if 8 ≤ (u.save.flags.filter (fun op => !op.fromCommand)).length then u.post .saveFault n 4098
      else { u with save := { u.save with flags := u.save.flags ++
        [{ kind := kind, fromCommand := false, first := a, count := count, nextWord := a / 16, polarity := false,
           tally := 0 }] } }
    (cue.length = 0 → u.request n e .playCue = refused 0) ∧
    (cue.length ≠ 0 → u.chip ≠ some .run ∨ u.sound.allocate play.priority = none →
      u.request n e .playCue = refused (256 + play.priority % 8)) ∧
    (∀ i, cue.length ≠ 0 → u.chip = some .run →
      (u.sound.allocate play.priority = some (.free i) → cue.isTone = false →
        u.request n e .playCue = placed i ((u.sound.voice i).prime play) []) ∧
      (u.sound.allocate play.priority = some (.free i) → cue.isTone = true →
        u.request n e .playCue = placed i (((u.sound.voice i).prime play).enterPlaying i).1
          (((u.sound.voice i).prime play).enterPlaying i).2) ∧
      (u.sound.allocate play.priority = some (.releasing i) →
        u.request n e .playCue = placed i { u.sound.voice i with next := some play } []) ∧
      (u.sound.allocate play.priority = some (.steal i) →
        u.request n e .playCue = placed i { ((u.sound.voice i).release i .stolen).1 with next := some play }
          ((u.sound.voice i).release i .stolen).2)) ∧
    u.request n e .stopCue = (u.withSound (u.sound.onAll (Voice.stopIfCue a))).updateRomPort ∧
    u.request n e .silence = (u.withSound (u.sound.onAll Voice.stop)).updateRomPort ∧
    u.request n e .rumble = u.submitRumble
      { pattern := a, priority := raise (u.rumble.header a).priority.toNat, source := .action, voice := none,
        notify := (u.rumble.header a).notify, arrival := u.rumble.nextArrival } ∧
    u.request n e .rumbleCut = u.removeRumble .cut ∧
    u.request n e .flagSet = flag .set 1 ∧ u.request n e .flagClear = flag .clear 1 ∧
    u.request n e .flagClearRange = flag .clearRange e.operandB.toNat ∧
    u.request n e .post = u.post .user n a

/-! ## Sound commands (Chapter 5) -/

/-- CUE PLAY's refusals in their order, and what an accepted play of a sampled cue does on a FREE voice, on a RELEASING voice,
and by stealing (R68, R69, R82); the context a play begins with, what entering PLAYING does, and how a stolen voice ends its cue
(R69 to R71, R78). A play gives the mixer 0 until its first sample is made: log 17 for a sampled cue, and for a TONE the model's
choice (log 43). -/
def Obligations.CuePlayAllocatesVoice : Prop :=
  (∀ s : State,
    let u := s.settled
    let cue := u.arg 0
    let e := u.sound.cue cue
    let request := if 2 ≤ u.command.argCount then some (u.arg 1) else none
    let priority := raised e.priority.toNat request
    let play : Play := { cue := cue, entry := e, priority := priority, order := u.sound.nextOrder }
    let placed (i : Nat) (v : Voice) : Sound :=
      { u.sound with voices := u.sound.voices.setIfInBounds i v, nextOrder := u.sound.nextOrder + 1 }
    u.passes .cuePlay →
      ((∃ p, request = some p ∧ 7 < p) ∨ (cue < 128 ∧ e.length = 0) →
        exec .cuePlay s = s.answering (u.respond .badArg [])) ∧
      ((∀ p, request = some p → p ≤ 7) → 128 ≤ cue → exec .cuePlay s = s.answering (u.respond .outOfRange [])) ∧
      ((∀ p, request = some p → p ≤ 7) → cue < 128 → e.length ≠ 0 →
        (u.chip ≠ some .run ∨ u.sound.allocate priority = none →
          exec .cuePlay s = s.answering (u.respond .noVoice [])) ∧
        (∀ i, u.chip = some .run → u.sound.allocate priority = some (.free i) → e.isTone = false →
          exec .cuePlay s = s.answering
            ({ u with sound := placed i ((u.sound.voice i).prime play) }.respond .ok [BitVec.ofNat 16 i])) ∧
        (∀ i, u.chip = some .run → u.sound.allocate priority = some (.free i) → e.isTone = true →
          exec .cuePlay s = s.answering
            ((u.withSound (placed i (((u.sound.voice i).prime play).enterPlaying i).1,
              (((u.sound.voice i).prime play).enterPlaying i).2)).respond .ok [BitVec.ofNat 16 i])) ∧
        (∀ i, u.chip = some .run → u.sound.allocate priority = some (.releasing i) →
          exec .cuePlay s = s.answering
            ({ u with sound := placed i { u.sound.voice i with next := some play } }.respond .ok [BitVec.ofNat 16 i])) ∧
        (∀ i, u.chip = some .run → u.sound.allocate priority = some (.steal i) →
          exec .cuePlay s = s.answering
            ((u.withSound (placed i { ((u.sound.voice i).release i .stolen).1 with next := some play },
              ((u.sound.voice i).release i .stolen).2)).respond .ok [BitVec.ofNat 16 i])))) ∧
  ∀ (v : Voice) (i : Nat) (p : Play),
    let linked := v.play.entry.linked
    let ended := if v.play.entry.notify = true then
      [SoundEffect.post .cueEnd v.play.cue (32768 + min v.underruns 16383)] else []
    v.prime p =
      { state := .priming, play := p, position := 0, phase := 0, fetchPoint := p.entry.start.toNat, buffer := [],
        held := none, predictor := 0, exponent := 0, underruns := 0, underrunPosted := false, next := none,
        linked := false, current := 0, elapsed := 0 } ∧
    (linked = 255 → v.enterPlaying i = ({ v with state := .playing, elapsed := 0, phase := 0 }, [])) ∧
    (linked ≠ 255 → v.enterPlaying i =
      ({ v with state := .playing, elapsed := 0, phase := 0, linked := true }, [.link i linked.toNat v.play.priority])) ∧
    v.release i .stolen =
      ({ v with state := .releasing, buffer := [], held := none, linked := false, elapsed := 0 },
        ended ++ if v.linked = true then [.stopped i] else [])

/-- The voice a play gets: the lowest FREE voice; with none FREE, the lowest RELEASING voice without a next cue; with none of
either, one of the PRIMING and PLAYING voices whose priority does not exceed the play's, none of them of a lower priority or of
the same priority and older; and no voice exactly when there is none of the three (R68). -/
def Obligations.AllocationPrefersFreeThenReleasingThenWeakest : Prop :=
  ∀ (x : Sound) (priority : Nat),
    let free (i : Nat) := i < 6 ∧ (x.voice i).state = .free
    let open_ (i : Nat) := i < 6 ∧ (x.voice i).state = .releasing ∧ (x.voice i).next = none
    let weak (i : Nat) := i < 6 ∧ ((x.voice i).state = .priming ∨ (x.voice i).state = .playing) ∧
      (x.voice i).play.priority ≤ priority
    let weaker (i j : Nat) := (x.voice i).play.priority < (x.voice j).play.priority ∨
      ((x.voice i).play.priority = (x.voice j).play.priority ∧ (x.voice i).play.order ≤ (x.voice j).play.order)
    (∀ i, x.allocate priority = some (.free i) ↔ free i ∧ ∀ j, free j → i ≤ j) ∧
    (∀ i, x.allocate priority = some (.releasing i) ↔ (∀ j, ¬ free j) ∧ open_ i ∧ ∀ j, open_ j → i ≤ j) ∧
    (∀ i, x.allocate priority = some (.steal i) →
      (∀ j, ¬ free j) ∧ (∀ j, ¬ open_ j) ∧ weak i ∧ ∀ j, weak j → weaker i j) ∧
    ((∀ j, ¬ free j) → (∀ j, ¬ open_ j) → (∃ j, weak j) → ∃ i, x.allocate priority = some (.steal i)) ∧
    (x.allocate priority = none ↔ (∀ j, ¬ free j) ∧ (∀ j, ¬ open_ j) ∧ ∀ j, ¬ weak j)

/-- VOICE STOP and SOUND STOP ALL stop under R77 and answer how many cues or next cues they ended (R83). A stop of a PRIMING or
PLAYING voice ends its cue STOPPED: RELEASING, an empty buffer, CUE_END if notify is set, then the report that the voice has
stopped; of a RELEASING voice it drops the next cue with CUE_END; of any other it does nothing (R77, R78). An operation on all
voices reaches each, in voice order (for STOP_CUE the model's choice: log 21), and what the voices ask is done in order. -/
def Obligations.StopsAnswerWhatTheyEnded : Prop :=
  (∀ s : State,
    let u := s.settled
    let stopped := (u.sound.voice (u.arg 0)).stop (u.arg 0)
    let ends (i : Nat) := (u.sound.voice i).state = .priming ∨ (u.sound.voice i).state = .playing ∨
      ((u.sound.voice i).state = .releasing ∧ (u.sound.voice i).next ≠ none)
    (u.passes .voiceStop →
      (6 ≤ u.arg 0 → exec .voiceStop s = s.answering (u.respond .outOfRange [])) ∧
      (u.arg 0 < 6 →
        exec .voiceStop s = s.answering
          ((u.withSound ({ u.sound with voices := u.sound.voices.setIfInBounds (u.arg 0) stopped.1 }, stopped.2)).respond .ok
            [if ends (u.arg 0) then 1 else 0]))) ∧
    (u.passes .soundStopAll →
      exec .soundStopAll s = s.answering
        ((u.withSound (u.sound.onAll Voice.stop)).respond .ok
          [BitVec.ofNat 16 ([0, 1, 2, 3, 4, 5].filter (fun i => ends i)).length]))) ∧
  (∀ (v : Voice) (i cue : Nat),
    let ended (p : Play) (underruns : Nat) := if p.entry.notify = true then
      [SoundEffect.post .cueEnd p.cue (16384 + min underruns 16383)] else []
    (v.state = .priming ∨ v.state = .playing → v.stop i =
      ({ v with state := .releasing, buffer := [], held := none, linked := false, elapsed := 0 },
        ended v.play v.underruns ++ if v.linked = true then [.stopped i] else [])) ∧
    (∀ p, v.state = .releasing → v.next = some p → v.stop i = ({ v with next := none }, ended p 0)) ∧
    (v.state = .free ∨ (v.state = .releasing ∧ v.next = none) → v.stop i = (v, [])) ∧
    v.stopIfCue cue i =
      if ((v.state = .priming ∨ v.state = .playing) ∧ v.play.cue = cue) ∨ (v.next.map (·.cue)) = some cue then v.stop i
      else (v, [])) ∧
  (∀ (x : Sound) (f : Nat → Voice → Voice × List SoundEffect),
    ∃ voices : Vector Voice 6,
      x.onAll f = ({ x with voices := voices }, [0, 1, 2, 3, 4, 5].flatMap (fun i => (f i (x.voice i)).2)) ∧
        ∀ i, i < 6 → Table.get voices i Voice.reset = (f i (x.voice i)).1) ∧
  (∀ (u : Ef24) (x : Sound) (asks : List SoundEffect) (kind : EventKind) (i n m : Nat),
    u.withSound (x, []) = { u with sound := x } ∧
    u.withSound (x, asks ++ [.post kind n m]) = (u.withSound (x, asks)).post kind n m ∧
    u.withSound (x, asks ++ [.stopped i]) = (u.withSound (x, asks)).tellVoiceStopped i ∧
    u.withSound (x, asks ++ [.link i n m]) =
      (u.withSound (x, asks)).submitRumble
        { pattern := n, priority := m, source := .cueLink, voice := some i,
          notify := ((u.withSound (x, asks)).rumble.header n).notify,
          arrival := (u.withSound (x, asks)).rumble.nextArrival }) ∧
  ∀ (x : Sound) (i : Nat) (v : Voice), x.withVoice i v = { x with voices := x.voices.setIfInBounds i v }

/-- SOUND VOLUME sets the master volume; VOICE STATUS answers eighteen words and changes nothing (R84); the codes of the voice
states (section 13.5). -/
def Obligations.VolumeSetsAndVoicesReport : Prop :=
  (∀ s : State,
    let u := s.settled
    (u.passes .soundVolume →
      exec .soundVolume s = s.answering
        (if 15 < u.arg 0 then u.respond .badArg []
          else { u with sound := { u.sound with masterVolume := u.arg 0 } }.respond .ok [])) ∧
    (u.passes .voiceStatus →
      exec .voiceStatus s = s.answering (u.respond .ok
        ([0, 1, 2, 3, 4, 5].flatMap (fun i =>
          let v := u.sound.voice i
          let position := if v.state = .free then 0 else v.position
          [ BitVec.ofNat 16 (v.play.cue % 128 * 256 + (if v.next.isSome then 4 else 0) + v.state.code),
            BitVec.ofNat 16 (position / 65536), BitVec.ofNat 16 position ]))))) ∧
  [VoiceState.free, .priming, .playing, .releasing].map VoiceState.code = [0, 1, 2, 3]

/-! ## Rumble commands (Chapter 6) -/

/-- RUMBLE START's refusals in their order, and what a request does that is taken: it starts, preempts, joins the queue, or
displaces (R90, R91, R101); the queue's order, which request is displaced, how a request starts, the posts, and the same table for
a request from an action or a cue link, whose refusals are posted (R90 to R93). A pattern's steps, and when it is playable (R85, R86,
R90); the priority that a priority request raises (R56, R101). -/
def Obligations.RumbleStartStartsOrQueues : Prop :=
  (∀ s : State,
    let u := s.settled
    let r := u.rumble
    let pattern := u.arg 0
    let request := if 2 ≤ u.command.argCount then some (u.arg 1) else none
    let q : Request := { pattern := pattern, priority := raised (r.header pattern).priority.toNat request,
                         source := .command, voice := none, notify := (r.header pattern).notify, arrival := r.nextArrival }
    let counted := { r with nextArrival := r.nextArrival + 1 }
    u.passes .rumbleStart →
      ((∃ p, request = some p ∧ 7 < p) ∨ (pattern < 32 ∧ r.playable pattern = false) →
        exec .rumbleStart s = s.answering (u.respond .badArg [])) ∧
      ((∀ p, request = some p → p ≤ 7) → 32 ≤ pattern → exec .rumbleStart s = s.answering (u.respond .outOfRange [])) ∧
      ((∀ p, request = some p → p ≤ 7) → pattern < 32 → r.playable pattern = true →
        (u.chip = some .enteringSleep → exec .rumbleStart s = s.answering (u.respond .asleep [])) ∧
        (u.chip ≠ some .enteringSleep → r.wouldOverflow q.priority = true →
          exec .rumbleStart s = s.answering (u.respond .busy [])) ∧
        (u.chip ≠ some .enteringSleep → r.wouldOverflow q.priority = false → r.enabled = false →
          exec .rumbleStart s = s.answering (u.respond .disabled [])) ∧
        (u.chip ≠ some .enteringSleep → r.enabled = true → r.playing = none →
          exec .rumbleStart s = s.answering ({ u with rumble := counted.start q u.ceiling }.respond .ok [0])) ∧
        (∀ p, u.chip ≠ some .enteringSleep → r.enabled = true → r.playing = some p → p.request.priority < q.priority →
          exec .rumbleStart s = s.answering
            (({ u with rumble := counted.start q u.ceiling }.postAll (p.request.cutPost .preempt false)).respond .ok [0])) ∧
        (∀ p, u.chip ≠ some .enteringSleep → r.enabled = true → r.playing = some p → q.priority ≤ p.request.priority →
          r.queue.length < 4 →
          exec .rumbleStart s = s.answering
            ({ u with rumble := { counted with queue := joinQueue q r.queue } }.respond .ok [1])) ∧
        (∀ p d, u.chip ≠ some .enteringSleep → r.enabled = true → r.playing = some p → q.priority ≤ p.request.priority →
          4 ≤ r.queue.length → lowestPriority r.queue < q.priority → displacedOf r.queue = some d →
          exec .rumbleStart s = s.answering
            (({ u with rumble := { counted with queue := joinQueue q (r.queue.erase d) } }.postAll
              (d.cutPost .displaced true)).respond .ok [1])))) ∧
  (∀ (q : Request) (queue : List Request),
    joinQueue q queue = queue.takeWhile (fun x => decide (q.priority ≤ x.priority)) ++
      q :: queue.dropWhile (fun x => decide (q.priority ≤ x.priority)) ∧
    (queue.Pairwise (fun x y => y.priority ≤ x.priority) →
      (joinQueue q queue).Pairwise (fun x y => y.priority ≤ x.priority)) ∧
    (queue ≠ [] → (∀ x ∈ queue, x.priority ≤ 7) →
      (∀ x ∈ queue, lowestPriority queue ≤ x.priority) ∧
      ∃ d ∈ queue, displacedOf queue = some d ∧ d.priority = lowestPriority queue ∧
        ∀ x ∈ queue, x.priority = lowestPriority queue → x.arrival ≤ d.arrival)) ∧
  (∀ (r : Rumble) (priority : Nat), r.wouldOverflow priority = true ↔
    ∃ p, r.playing = some p ∧ priority ≤ p.request.priority ∧ 4 ≤ r.queue.length ∧ priority ≤ lowestPriority r.queue) ∧
  (∀ (r : Rumble) (q : Request) (ceiling : Nat),
    let first := r.patternStep q.pattern 0
    let repeats := (r.header q.pattern).repeats
    r.start q ceiling = { r with
      playing := some { request := q, step := 0, ticksLeft := first.duration.toNat,
                        playsLeft := if repeats = 15 then none else some repeats.toNat }
      motor := r.motor.begin first ceiling }) ∧
  (∀ (q : Request),
    let detail (cause queued : Nat) := cause * 4096 + queued * 1024 + q.source.code * 256
    let cut (cause queued : Nat) : List Posting :=
      if q.notify = true then [(.rumbleCut, q.pattern, detail cause queued)] else []
    q.cutPost .preempt false = cut 0 0 ∧ q.cutPost .displaced true = cut 1 1) ∧
  (∀ (u : Ef24) (q : Request),
    let r := u.rumble
    let counted := { r with nextArrival := r.nextArrival + 1 }
    let refused (reason : Nat) : Ef24 := if q.source = .command then u
      else u.post .rumbleRefused q.pattern (reason * 4096 + q.source.code * 256 + q.priority % 8)
    (r.enabled = false → u.submitRumble q = refused 1) ∧
    (r.enabled = true → r.playable q.pattern = false → u.submitRumble q = refused 2) ∧
    (r.enabled = true → r.playable q.pattern = true →
      (r.playing = none → u.submitRumble q = { u with rumble := counted.start q u.ceiling }) ∧
      ∀ p, r.playing = some p →
        (p.request.priority < q.priority →
          u.submitRumble q = { u with rumble := counted.start q u.ceiling }.postAll (p.request.cutPost .preempt false)) ∧
        (q.priority ≤ p.request.priority → r.queue.length < 4 →
          u.submitRumble q = { u with rumble := { counted with queue := joinQueue q r.queue } }) ∧
        (∀ d, q.priority ≤ p.request.priority → 4 ≤ r.queue.length → lowestPriority r.queue < q.priority →
          displacedOf r.queue = some d →
          u.submitRumble q = { u with rumble := { counted with queue := joinQueue q (r.queue.erase d) } }.postAll
            (d.cutPost .displaced true)) ∧
        (q.priority ≤ p.request.priority → 4 ≤ r.queue.length → q.priority ≤ lowestPriority r.queue →
          u.submitRumble q = refused 3))) ∧
  (∀ (r : Rumble) (n i : Nat),
    r.patternStep n i = Table.get r.steps ((r.header n).firstStep.toNat + i) PatternStep.empty) ∧
  (∀ (r : Rumble) (n : Nat), r.playable n = true ↔
    1 ≤ (r.header n).stepCount.toNat ∧ (r.header n).stepCount.toNat ≤ 64 ∧
      ∀ i, i < (r.header n).stepCount.toNat → (r.patternStep n i).duration ≠ 0) ∧
  ∀ own p : Nat, raised own none = own ∧ raised own (some p) = max own p

/-- RUMBLE CUT removes every request and answers their number; RUMBLE ENABLE and RUMBLE LIMITS set what they name or answer
BAD_ARG (R93, R101, R102). A removal of all posts the playing request's RUMBLE_CUT first, then the queued ones' in order, and
begins the end brake (R92, R93; in one step: log 32); a voice that has stopped takes its linked request with it (R99). -/
def Obligations.RumbleControlsSetAndRemove : Prop :=
  (∀ s : State,
    let u := s.settled
    (u.passes .rumbleCut →
      exec .rumbleCut s = s.answering ((u.removeRumble .cut).respond .ok
        [BitVec.ofNat 16 ((if u.rumble.playing.isSome then 1 else 0) + u.rumble.queue.length)]) ∧
      (u.removeRumble .cut).rumble.playing = none ∧ (u.removeRumble .cut).rumble.queue = []) ∧
    (u.passes .rumbleEnable →
      (2 ≤ u.arg 0 → exec .rumbleEnable s = s.answering (u.respond .badArg [])) ∧
      (u.arg 0 = 1 → exec .rumbleEnable s = s.answering
        ({ u with rumble := { u.rumble with enabled := true } }.respond .ok [])) ∧
      (u.arg 0 = 0 → exec .rumbleEnable s = s.answering
        (({ u with rumble := { u.rumble with enabled := false } }.removeRumble .disabled).respond .ok []))) ∧
    (u.passes .rumbleLimits →
      exec .rumbleLimits s = s.answering
        (if 1 ≤ u.arg 1 ∧ u.arg 1 ≤ 15 ∧ u.arg 0 ≤ 14 ∧ u.arg 0 < u.arg 1 then
          { u with rumble := { u.rumble with guardStrength := u.arg 0, heavyThreshold := u.arg 1 } }.respond .ok []
        else u.respond .badArg []))) ∧
  (∀ (u : Ef24) (cause : CutCause),
    let r := u.rumble
    let code := match cause with
      | .preempt => 0
      | .displaced => 1
      | .voice => 2
      | .cut => 3
      | .disabled => 4
      | .table => 5
      | .sleep => 6
    let cut (queued : Nat) (q : Request) : List Posting :=
      if q.notify = true then [(.rumbleCut, q.pattern, code * 4096 + queued * 1024 + q.source.code * 256)] else []
    (r.playing = none → u.removeRumble cause =
      { u with rumble := { r with queue := [] } }.postAll (r.queue.flatMap (cut 1))) ∧
    ∀ p, r.playing = some p → u.removeRumble cause =
      { u with rumble := { r with playing := none, queue := [], motor := r.motor.endBrake } }.postAll
        (cut 0 p.request ++ r.queue.flatMap (cut 1))) ∧
  ∀ (u : Ef24) (i : Nat),
    let r := u.rumble
    let linked (q : Request) := q.voice = some i
    let cut (queued : Nat) (q : Request) : List Posting :=
      if q.notify = true then [(.rumbleCut, q.pattern, 2 * 4096 + queued * 1024 + q.source.code * 256)] else []
    (∀ p, r.playing = some p → linked p.request →
      (r.queue = [] → u.tellVoiceStopped i =
        { u with rumble := { r with playing := none, motor := r.motor.endBrake } }.postAll (cut 0 p.request)) ∧
      ∀ q rest, r.queue = q :: rest → u.tellVoiceStopped i =
        { u with rumble := { r with playing := none, queue := rest }.start q u.ceiling }.postAll (cut 0 p.request)) ∧
    ((∀ p, r.playing = some p → ¬ linked p.request) → u.tellVoiceStopped i =
      { u with rumble := { r with queue := r.queue.filter (fun q => ¬ linked q) } }.postAll
        ((r.queue.filter (fun q => linked q)).flatMap (cut 1)))

/-- RUMBLE STATUS answers eight words that report the Drive, and changes nothing (R103); the codes of the motor states and of the
sources (section 13.5). -/
def Obligations.RumbleStatusReportsDrive : Prop :=
  (∀ s : State,
    let u := s.settled
    let r := u.rumble
    let place (q : Option Request) : Word := match q with
      | some q => BitVec.ofNat 16 (q.pattern % 32 * 256 + q.priority % 8)
      | none => 0
    u.passes .rumbleStatus →
      exec .rumbleStatus s = s.answering (u.respond .ok
        [ BitVec.ofNat 16 (u.ceiling % 16 * 256 + r.motor.strength % 16 * 16 + r.motor.state.code),
          BitVec.ofNat 16 (r.heavyThreshold % 16 * 256 + r.guardStrength % 16 * 16 +
            (if r.heavyThreshold ≤ r.motor.strength then 4 else 0) + (if u.save.guard then 2 else 0) +
            (if r.enabled then 1 else 0)),
          match r.playing with
          | some p => BitVec.ofNat 16 (p.request.pattern % 32 * 256 + p.request.priority % 8 * 16 +
              p.request.source.code * 4 + 1)
          | none => 0,
          match r.playing with
          | some p => BitVec.ofNat 16 (p.playsLeft.getD 15 % 16 * 4096 + p.step % 64 * 16 + p.request.voice.getD 7 % 8)
          | none => 0,
          BitVec.ofNat 16 r.queue.length, place r.queue[0]?, place r.queue[1]?, place r.queue[2]? ])) ∧
  [MotorState.stopped, .kick, .driving, .coasting, .braking].map MotorState.code = [0, 1, 2, 3, 4] ∧
  [RumbleSource.action, .command, .cueLink].map RumbleSource.code = [0, 1, 2]

/-! ## Save commands (Chapter 7) -/

/-- SAVE FORMAT's refusals in their order, and what its acceptance does (R109, R114); the words that FORMATTING then writes, in
their order, and the CRC (R106, R114, section 13.6; the order of a slot record's fields: log 25; of the slot records, and of the
flag words: log 45; the format mark just before the check word: the model's choice, log 46); a writing cut off at any word after
the first leaves no valid volume record, unless only the check word is left and SRAM already holds the new record's (R106,
R123); the strapped SRAM capacity by its code. -/
def Obligations.SaveFormatStartsDraining : Prop :=
  (∀ s : State,
    let u := s.settled
    let n := u.arg 0
    let sizes := (List.range n).map (fun k => u.arg (k + 1))
    let bad := n = 0 ∨ 8 < n ∨ u.command.argCount ≠ n + 1 ∨ (∃ z ∈ sizes, z = 0 ∨ 63 < z) ∨
      Config.sramKiB u.sramCode < 1 + 2 * sizes.sum
    let open_ := ∃ i, i < 16 ∧ ((u.window i).kindNamed = some .saveStage ∨ (u.window i).kindNamed = some .saveLive ∨
      (u.window i).kindNamed = some .flags)
    u.passes .saveFormat →
      (bad → exec .saveFormat s = s.answering (u.respond .badArg [])) ∧
      (¬ bad → u.save.volume = .recovering → exec .saveFormat s = s.answering (u.respond .notReady [])) ∧
      (¬ bad → u.save.volume ≠ .recovering → u.save.sequencer ≠ .idle →
        exec .saveFormat s = s.answering (u.respond .busy [])) ∧
      (¬ bad → u.save.volume ≠ .recovering → u.save.sequencer = .idle → open_ →
        exec .saveFormat s = s.answering (u.respond .windowsOpen [])) ∧
      (¬ bad → u.save.volume ≠ .recovering → u.save.sequencer = .idle → ¬ open_ →
        ∃ slots : Vector Slot 8,
          exec .saveFormat s = s.answering ({ u with save := { u.save with
            slots := slots, volume := .unformatted, sequencer := .formatDraining sizes } }.respond .accepted []) ∧
          ∀ k, k < 8 → Table.get slots k Slot.reset = { u.save.slot k with tainted := false, bad := false })) ∧
  (∀ (sizes : List Nat) (capacity : Nat),
    let volume : List Word := [0x5EF2, BitVec.ofNat 16 sizes.length, BitVec.ofNat 16 capacity] ++
      (List.range 8).map (fun k => BitVec.ofNat 16 (sizes.getD k 0))
    let empty : List Word := [0, 0, 0, 0, 0, 0, 0, 0, 0xFFFF, 0xFFFF]
    let writes := formatWrites sizes capacity
    writes =
      [(0, 0), (144, 0)] ++
      (List.range 8).flatMap (fun k => (List.range 10).map (fun j => (16 + 16 * k + j, empty.getD j 0)) ++
        [(16 + 16 * k + 15, crcOf empty)]) ++
      (List.range 256).map (fun w => (256 + w, 0)) ++
      (List.range 10).map (fun j => (1 + j, volume.getD (1 + j) 0)) ++ [(0, 0x5EF2), (15, crcOf volume)] ∧
    ∀ (m : Memory) (n : Nat) (code : BitVec 2), m.wf → 1 ≤ n → n < writes.length →
      (n + 1 < writes.length ∨ m.read 15 ≠ crcOf volume) →
        volumeValid ((List.range 11 ++ [15]).map (m.writeAll (writes.take n)).read) code = false) ∧
  (crcOf [] = 0xFFFF ∧ ∀ (ws : List Word) (w : Word), crcOf (ws ++ [w]) = crcWord (crcOf ws) w) ∧
  (∀ crc w : Word, crcWord crc w =
    [15, 14, 13, 12, 11, 10, 9, 8, 7, 6, 5, 4, 3, 2, 1, 0].foldl (fun c i => crcBit c (w.getLsbD i)) crc) ∧
  (∀ (crc : Word) (b : Bool), crcBit crc b = if crc.getLsbD 15 = b then crc <<< 1 else (crc <<< 1) ^^^ 0x1021) ∧
  [0, 1, 2, 3].map Config.sramKiB = [32, 64, 128, 32]

/-- SLOT SEED, SLOT DISCARD and SLOT VERIFY share their refusals; each then starts its operation, and the verify of an EMPTY
slot ends at once (R115, R120, R121); the words of an intent record (R105, section 13.6), in the order they are written: the
check word last (R106, R118), the mark just before it, which is the model's choice (log 46); where SRAM holds no intent mark, a
writing cut off at any word leaves no valid intent record, unless only the check word is left and SRAM already holds the new
record's (R106, R123); an EMPTY record (R105, R120). -/
def Obligations.SlotCommandsStart : Prop :=
  (∀ s : State,
    let u := s.settled
    let k := u.arg 0
    let limit := if u.save.volume = .ready then u.save.slotCount else 8
    let unmarked (x : Slot) : Slot := { x with tainted := false, bad := false }
    (∀ c ∈ [Command.slotSeed, Command.slotDiscard, Command.slotVerify], u.passes c →
      (limit ≤ k → exec (frameRow c) s = s.answering (u.respond .outOfRange [])) ∧
      (k < limit → u.save.volume ≠ .ready → exec (frameRow c) s = s.answering (u.respond .notReady [])) ∧
      (k < limit → u.save.volume = .ready → u.save.sequencer ≠ .idle →
        exec (frameRow c) s = s.answering (u.respond .busy []))) ∧
    (k < limit → u.save.volume = .ready → u.save.sequencer = .idle →
      (u.passes .slotSeed →
        exec .slotSeed s = s.answering
          ({ u with save := { u.save with sequencer := .seedDraining k } }.respond .accepted [])) ∧
      (u.passes .slotDiscard → k < 8 →
        exec .slotDiscard s = s.answering
          ({ u with save := { u.save with
              slots := u.save.slots.setIfInBounds k (unmarked (u.save.slot k))
              sequencer := .intent false k (SlotRecord.empty ((u.save.slot k).record.generation + 1))
                (intentRecordWrites k (SlotRecord.empty ((u.save.slot k).record.generation + 1))
                  (u.save.slot k).record) } }.respond .accepted [])) ∧
      (u.passes .slotVerify →
        ((u.save.slot k).record.valid = true →
          exec .slotVerify s = s.answering
            ({ u with save := { u.save with sequencer := .verifying k 0 0xFFFF } }.respond .accepted [])) ∧
        ((u.save.slot k).record.valid = false →
          exec .slotVerify s = s.answering
            (({ u with save := { u.save with
                slots := u.save.slots.setIfInBounds k { u.save.slot k with bad := false } } }.respond .accepted []).postDone
              .slotVerify .ok k))))) ∧
  (∀ (k : Nat) (new prior : SlotRecord),
    let fields (r : SlotRecord) : List Word :=
      [ BitVec.ofNat 16 ((if r.valid then 1 else 0) + (if r.live = .b then 2 else 0)),
        r.generation, r.dataLength, r.crc,
        BitVec.ofNat 16 (r.gameDay.toNat / 65536), BitVec.ofNat 16 r.gameDay.toNat,
        BitVec.ofNat 16 (r.playSeconds.toNat / 65536), BitVec.ofNat 16 r.playSeconds.toNat,
        (match r.instant with | some t => BitVec.ofNat 16 (t.toNat / 65536) | none => 0xFFFF),
        (match r.instant with | some t => BitVec.ofNat 16 t.toNat | none => 0xFFFF) ]
    let words := [0x5EF2, BitVec.ofNat 16 k] ++ fields new ++ fields prior
    let writes := intentRecordWrites k new prior
    writes = (List.range 21).map (fun j => (145 + j, words.getD (1 + j) 0)) ++ [(144, 0x5EF2), (175, crcOf words)] ∧
    ∀ (m : Memory) (n : Nat), m.wf → m.read 144 ≠ 0x5EF2 → n < writes.length →
      (n + 1 < writes.length ∨ m.read 175 ≠ crcOf words) →
        intentValid (((List.range 22).map (144 + ·) ++ [175]).map (m.writeAll (writes.take n)).read) = false) ∧
  ∀ generation : Word, SlotRecord.empty generation =
    { valid := false, live := .a, generation := generation, dataLength := 0, crc := 0, gameDay := 0, playSeconds := 0,
      instant := none }

/-- SLOT COMMIT's refusals in their order; its acceptance raises the Commit Guard and starts DRAINING (R116). -/
def Obligations.SlotCommitRaisesGuard : Prop :=
  ∀ s : State,
    let u := s.settled
    let k := u.arg 0
    let length := u.arg 1
    let limit := if u.save.volume = .ready then u.save.slotCount else 8
    let bad := length % 2 = 1 ∨ length = 0 ∨ 64512 < length ∨
      (u.save.volume = .ready ∧ k < u.save.slotCount ∧ 1024 * u.save.sizes.getD k 0 < length)
    u.passes .slotCommit →
      (bad → exec .slotCommit s = s.answering (u.respond .badArg [])) ∧
      (¬ bad → limit ≤ k → exec .slotCommit s = s.answering (u.respond .outOfRange [])) ∧
      (¬ bad → k < limit → u.save.volume ≠ .ready → exec .slotCommit s = s.answering (u.respond .notReady [])) ∧
      (¬ bad → k < limit → u.save.volume = .ready →
        (u.save.sequencer ≠ .idle → exec .slotCommit s = s.answering (u.respond .busy [])) ∧
        (u.save.sequencer = .idle → (u.save.slot k).tainted = true →
          exec .slotCommit s = s.answering (u.respond .tainted [])) ∧
        (u.save.sequencer = .idle → (u.save.slot k).tainted = false →
          exec .slotCommit s = s.answering
            ({ u with save := { u.save with guard := true, sequencer := .commitDraining k length } }.respond .accepted [])))

/-- SLOT INFO refuses, or answers eleven words from the core copy and the marks and changes nothing (R122). -/
def Obligations.SlotInfoReportsCopy : Prop :=
  ∀ s : State,
    let u := s.settled
    let k := u.arg 0
    let x := u.save.slot k
    let limit := if u.save.volume = .ready then u.save.slotCount else 8
    u.passes .slotInfo →
      exec .slotInfo s = s.answering
        (if limit ≤ k then u.respond .outOfRange []
          else if u.save.volume ≠ .ready then u.respond .notReady []
          else u.respond .ok
            [ BitVec.ofNat 16 ((if x.bad then 8 else 0) + (if x.tainted then 4 else 0) +
                (if x.record.live = .b then 2 else 0) + (if x.record.valid then 1 else 0)),
              x.record.generation, x.record.dataLength, x.record.crc,
              BitVec.ofNat 16 (x.record.gameDay.toNat / 65536), BitVec.ofNat 16 x.record.gameDay.toNat,
              BitVec.ofNat 16 (x.record.playSeconds.toNat / 65536), BitVec.ofNat 16 x.record.playSeconds.toNat,
              (match x.record.instant with | some t => BitVec.ofNat 16 (t.toNat / 65536) | none => 0xFFFF),
              (match x.record.instant with | some t => BitVec.ofNat 16 t.toNat | none => 0xFFFF),
              BitVec.ofNat 16 (u.save.sizes.getD k 0) ])

/-! ## Flags (Chapter 8) -/

/-- The flag commands refuse, or their operation joins the back of the list with no answer yet (R130, R132 to R134). -/
def Obligations.FlagCommandsJoinList : Prop :=
  ∀ s : State,
    let u := s.settled
    let joined (kind : FlagKind) (first count : Nat) (polarity : Bool) : Ef24 :=
      if u.save.volume ≠ .ready then u.respond .notReady []
      else { u with save := { u.save with flags := u.save.flags ++
        [{ kind := kind, fromCommand := true, first := first, count := count, nextWord := first / 16, polarity := polarity,
           tally := 0 }] } }
    (∀ x ∈ [(Command.flagTest, FlagKind.test), (.flagSet, .set), (.flagClear, .clear), (.flagToggle, .toggle)],
      u.passes x.1 →
        exec (frameRow x.1) s = s.answering
          (if 4096 ≤ u.arg 0 then u.respond .outOfRange [] else joined x.2 (u.arg 0) 1 false)) ∧
    (u.passes .flagScan →
      exec .flagScan s = s.answering
        (if u.arg 1 = 0 ∨ 1 < u.arg 2 then u.respond .badArg []
          else if 4096 < u.arg 0 + u.arg 1 then u.respond .outOfRange []
          else joined .scan (u.arg 0) (u.arg 1) (decide (u.arg 2 = 1)))) ∧
    (u.passes .flagClearRange →
      exec .flagClearRange s = s.answering
        (if u.arg 1 = 0 then u.respond .badArg []
          else if 4096 < u.arg 0 + u.arg 1 then u.respond .outOfRange []
          else joined .clearRange (u.arg 0) (u.arg 1) false))

/-- A flag-word access: the front operation writes its word, each bit as its kind says, and is finished and answered or moves
to the back of the list; when a kind is finished, and what it answers (R129 to R134). -/
def Obligations.FlagAccessWritesAndTurns : Prop :=
  (∀ (s : State) (op : FlagOp) (rest : List FlagOp),
    let u := s.settled
    let a := 256 + op.nextWord
    let w := u.sram.read a
    let done : Ef24 := { u with sram := u.sram.write a (op.written w), save := { u.save with flags := rest, port := none } }
    u.save.port = some .flag → u.save.flags = op :: rest →
      exec .flagWordAccess s = s.answering
        (if op.finished w = true then (if op.fromCommand = true then done.respond .ok [op.answer w] else done)
          else { done with save := { done.save with flags := rest ++
            [{ op with nextWord := op.nextWord + 1
                       tally := if op.kind = .clearRange then op.tally + op.setCount w else op.tally }] } })) ∧
  (∀ (op : FlagOp) (w : Word) (i : Nat), i < 16 →
    let inRange := op.first ≤ 16 * op.nextWord + i ∧ 16 * op.nextWord + i < op.first + op.count
    (op.written w).getLsbD i =
      (if inRange then
        match op.kind with
        | .test => w.getLsbD i
        | .scan => w.getLsbD i
        | .set => true
        | .clear => false
        | .clearRange => false
        | .toggle => !w.getLsbD i
      else w.getLsbD i)) ∧
  (∀ (op : FlagOp) (w : Word),
    let inRange (i : Nat) := op.first ≤ 16 * op.nextWord + i ∧ 16 * op.nextWord + i < op.first + op.count
    let lastTurn := op.first + op.count ≤ 16 * op.nextWord + 16
    let matches_ (i : Nat) := i < 16 ∧ inRange i ∧ w.getLsbD i = op.polarity
    op.setCount w = ((List.range 16).filter (fun i => inRange i ∧ w.getLsbD i = true)).length ∧
    (op.kind = .test ∨ op.kind = .set ∨ op.kind = .clear ∨ op.kind = .toggle →
      op.finished w = true ∧ op.answer w = if w.getLsbD (op.first % 16) = true then 1 else 0) ∧
    (op.kind = .scan →
      (op.finished w = true ↔ (∃ i, matches_ i) ∨ lastTurn) ∧
      (∀ i, matches_ i → (∀ j, matches_ j → i ≤ j) → op.answer w = BitVec.ofNat 16 (16 * op.nextWord + i)) ∧
      ((∀ i, ¬ matches_ i) → op.answer w = 0xFFFF)) ∧
    (op.kind = .clearRange →
      (op.finished w = true ↔ lastTurn) ∧ op.answer w = BitVec.ofNat 16 (op.tally + op.setCount w)))

/-! ## Calendar and timer commands (Chapter 9) -/

/-- CLOCK SET: a reading outside the range is BAD_ARG; the first set; a forward set with its count, cap, posts and one
rollover told; a backward set (R146 to R148). The count is of the instants after the high-water instant and at or before the set
time that read the Day Start Hour, 0, 0 (R147). A reading of the range: its year, its month, its date within the month of its year,
and its time (R138, R139, R146). -/
def Obligations.ClockSetFirstForwardBackward : Prop :=
  (∀ s : State,
    let u := s.settled
    let c := u.calendar
    let t : DateTime := { year := u.arg 0, month := u.arg 1, date := u.arg 2, hour := u.arg 3, minute := u.arg 4,
                          second := u.arg 5 }
    let n := rolloversBetween c.dayStart c.high t.instant
    let applied := if c.advanceCap = 255 then n else min n c.advanceCap
    let moved : Ef24 := { u with calendar := { c with now := t, high := t.instant, behind := false } }
    let told : Ef24 := if c.behind = true then moved.post .clockCaughtUp 1 0 else moved
    u.passes .clockSet →
      (t.exists_ = false → exec .clockSet s = s.answering (u.respond .badArg [])) ∧
      (t.exists_ = true → c.valid = false →
        exec .clockSet s = s.answering
          ({ u with calendar := { c with now := t, high := t.instant, behind := false, valid := true } }.respond .ok
            [0, 0, 0])) ∧
      (t.exists_ = true → c.valid = true → c.high ≤ t.instant →
        exec .clockSet s = s.answering
          ((if applied = 0 then told
            else
              (({ told with calendar := { told.calendar with gameDay := min 16777215 (c.gameDay + applied) } }).post
                .dayRollover (if applied = n then 1 else 3) applied).tellRollover).respond .ok
            [1, BitVec.ofNat 16 applied, BitVec.ofNat 16 (min 65535 n)])) ∧
      (t.exists_ = true → c.valid = true → t.instant < c.high →
        exec .clockSet s = s.answering
          ((({ u with calendar := { c with now := t, behind := true } }).post .clockBehind 0
            (min 65535 ((c.high - t.instant) / 60))).respond .ok
              [2, BitVec.ofNat 16 (min 65535 ((c.high - t.instant) / 60)), 0]))) ∧
  (∀ dayStart after upto : Nat, dayStart ≤ 23 →
    rolloversBetween dayStart after upto =
      ((Finset.Ioc after upto).filter (fun t => t % 86400 = dayStart * 3600)).card) ∧
  (∀ (t : DateTime) (dayStart : Nat), t.exists_ = true → dayStart ≤ 23 →
    (t.instant % 86400 = dayStart * 3600 ↔ t.hour = dayStart ∧ t.minute = 0 ∧ t.second = 0)) ∧
  (∀ t : DateTime, t.exists_ = true ↔
    (2000 ≤ t.year ∧ t.year ≤ 2099) ∧ (1 ≤ t.month ∧ t.month ≤ 12) ∧ (1 ≤ t.date ∧ t.date ≤ monthDays t.year t.month) ∧
      t.hour ≤ 23 ∧ t.minute ≤ 59 ∧ t.second ≤ 59) ∧
  ∀ year : Nat, (List.range 12).map (fun m => monthDays year (m + 1)) =
    [31, if year % 4 = 0 then 29 else 28, 31, 30, 31, 30, 31, 31, 30, 31, 30, 31]

/-- CLOCK READ and GAME DAY READ report and change nothing; DAY START SET and ADVANCE CAP SET set or answer BAD_ARG (R145,
R150, R151). -/
def Obligations.CalendarReportsAndSettings : Prop :=
  ∀ s : State,
    let u := s.settled
    let c := u.calendar
    (u.passes .clockRead →
      exec .clockRead s = s.answering (u.respond .ok
        [ BitVec.ofNat 16 c.now.year, BitVec.ofNat 16 (c.now.month % 256 * 256 + c.now.date % 256),
          BitVec.ofNat 16 (c.now.hour % 256 * 256 + c.now.minute % 256),
          BitVec.ofNat 16 (c.now.second % 256 * 256 + c.now.weekday * 16 + (if c.valid then 2 else 0) +
            (if c.behind then 1 else 0)) ])) ∧
    (u.passes .gameDayRead →
      exec .gameDayRead s = s.answering (u.respond .ok
        [ BitVec.ofNat 16 (c.gameDay / 65536), BitVec.ofNat 16 c.gameDay,
          BitVec.ofNat 16 (c.dayStart % 32 * 256 + c.advanceCap % 256) ])) ∧
    (u.passes .dayStartSet →
      exec .dayStartSet s = s.answering
        (if u.arg 0 ≤ 23 then { u with calendar := { c with dayStart := u.arg 0 } }.respond .ok []
          else u.respond .badArg [])) ∧
    (u.passes .advanceCapSet →
      exec .advanceCapSet s = s.answering
        (if 1 ≤ u.arg 0 ∧ u.arg 0 ≤ 255 then { u with calendar := { c with advanceCap := u.arg 0 } }.respond .ok []
          else u.respond .badArg []))

/-- The timer commands run, stop, clear and read the Play Timer, and a hundredth reaches it while it runs in RUN (R152,
R153). -/
def Obligations.PlayTimerCommandsAndHundredth : Prop :=
  ∀ s : State,
    let u := s.settled
    let c := u.calendar
    (u.passes .timerRun → exec .timerRun s = s.answering
      ({ u with calendar := { c with timerRunning := true } }.respond .ok [])) ∧
    (u.passes .timerStop → exec .timerStop s = s.answering
      ({ u with calendar := { c with timerRunning := false } }.respond .ok [])) ∧
    (u.passes .timerClear → exec .timerClear s = s.answering
      ({ u with calendar := { c with timerSeconds := 0, timerHundredths := 0 } }.respond .ok [])) ∧
    (u.passes .timerRead → exec .timerRead s = s.answering (u.respond .ok
      [ BitVec.ofNat 16 (c.timerSeconds / 65536), BitVec.ofNat 16 c.timerSeconds,
        BitVec.ofNat 16 ((if c.timerRunning then 32768 else 0) + c.timerHundredths % 128) ])) ∧
    (c.timerRunning = true → u.chip = some .run →
      exec .playTimerHundredth s = s.answering
        (if c.timerHundredths < 99 then { u with calendar := { c with timerHundredths := c.timerHundredths + 1 } }
          else if c.timerSeconds < 4294967295 then
            { u with calendar := { c with timerHundredths := 0, timerSeconds := c.timerSeconds + 1 } }
          else u)) ∧
    (c.timerRunning = false ∨ u.chip ≠ some .run → exec .playTimerHundredth s = s.answering u)

/-! ## Events, sleep, supply (Chapters 11 and 12) -/

/-- EVENT TAKE removes up to n records and clears the overflow flag; EVENT MASK SET replaces the mask; CIRQ then follows the
queue and the mask (R169 to R171). -/
def Obligations.EventTakeAndMaskSet : Prop :=
  (∀ s : State,
    let u := s.settled
    let n := u.arg 0
    let k := min n u.events.queue.length
    (u.passes .eventTake →
      (n = 0 ∨ 7 < n → exec .eventTake s = s.answering (u.respond .badArg [])) ∧
      (1 ≤ n → n ≤ 7 →
        exec .eventTake s = s.answering
          ({ u with events := { u.events with queue := u.events.queue.drop n, overflow := false } }.respond .ok
            (BitVec.ofNat 16 ((if u.events.overflow then 32768 else 0) + k) ::
              (u.events.queue.take n).flatMap (fun (e : Event) =>
                [BitVec.ofNat 16 e.kind.code, BitVec.ofNat 16 e.index.toNat, e.detail, e.stamp]))))) ∧
    (u.passes .eventMaskSet →
      exec .eventMaskSet s = s.answering
        (if u.arg 1 < 4 then
          { u with events := { u.events with mask := BitVec.ofNat 18 (u.arg 1 * 65536 + u.arg 0) } }.respond .ok []
        else u.respond .badArg []))) ∧
  ∀ u : Ef24, u.cirq = true ↔ u.power.supply ≠ .absent ∧ ∃ e ∈ u.events.queue, u.events.mask.getLsbD e.kind.code = true

/-- SLEEP is BUSY in ENTERING_SLEEP; in RUN it is ACCEPTED, the chip enters ENTERING_SLEEP, every voice ends with CUE_END cause
SLEEP and becomes FREE (a next cue with underrun count 0: log 22; AOUT at midscale at once: log 31), every request is removed with
cause SLEEP, and an open load ends with CMD_DONE ABORTED, in one of six orders, left open (log 14); when the five conditions hold the
chip becomes ASLEEP and CMD_DONE is posted (R46, R47, R81, R100, R180, R181). -/
def Obligations.SleepEntersAndCompletes : Prop :=
  (∀ s : State,
    let u := s.settled
    let entering : Ef24 := { u with chip := some .enteringSleep, free := u.free + 1 }
    let sound (x : Ef24) : Ef24 := x.withSound
      ({ (x.sound.onAll Voice.fallAsleep).1 with aout := 0 }, (x.sound.onAll Voice.fallAsleep).2)
    let rumble (x : Ef24) : Ef24 := x.removeRumble .sleep
    let load (x : Ef24) : Ef24 := match x.loader with
      | some l => if l.phase = .checking then x else { x with loader := none }.postDone .loadTable .aborted 0
      | none => x
    u.passes .sleep →
      (u.chip = some .enteringSleep → exec .sleep s = s.answering (u.respond .busy [])) ∧
      (u.chip = some .run → ∃ v : Ef24,
        exec .sleep s = s.answering (v.respond .accepted []) ∧
          v ∈ [load (rumble (sound entering)), rumble (load (sound entering)), load (sound (rumble entering)),
            sound (load (rumble entering)), rumble (sound (load entering)), sound (rumble (load entering))] ∧
          v.chip = some .enteringSleep ∧
          (∀ i, i < 6 → (v.sound.voice i).state = .free ∧
            ((u.sound.voice i).state ≠ .free → (v.sound.voice i).buffer = [])) ∧
          v.rumble.playing = none ∧ v.rumble.queue = [] ∧
          (u.rumble.playing ≠ none →
            v.rumble.motor.state = .stopped ∨ (v.rumble.motor.state = .braking ∧ v.rumble.motor.brakeLeft = 4)) ∧
          (∀ l, v.loader = some l → l.phase = .checking) ∧
          v.sram = u.sram ∧ v.save = u.save ∧ v.calendar = u.calendar ∧ v.schedule = u.schedule ∧
          v.windows = u.windows ∧ v.actions = u.actions ∧ v.command = u.command ∧ v.power = u.power)) ∧
  (∀ s : State,
    let u := s.toEf24.settleBlocks
    u.chip = some .enteringSleep → u.loader = none → u.save.sequencer = .idle → u.save.buffer = [] →
      u.rumble.motor.state = .stopped → (∀ i, i < 6 → (u.sound.voice i).state = .free) →
        exec .asleepReached s = s.answering ({ u with chip := some .asleep }.postDone .sleep .ok 0)) ∧
  ∀ (v : Voice) (i : Nat),
    let ended (p : Play) (underruns : Nat) := if p.entry.notify = true then
      [SoundEffect.post .cueEnd p.cue (49152 + min underruns 16383)] else []
    let freed : Voice :=
      { v with state := .free, buffer := [], held := none, next := none, linked := false, elapsed := 0 }
    (v.state = .priming ∨ v.state = .playing → v.fallAsleep i =
      (freed, ended v.play v.underruns ++ if v.linked = true then [.stopped i] else [])) ∧
    (v.state = .releasing → v.fallAsleep i = (freed, match v.next with
      | some p => ended p 0
      | none => [])) ∧
    (v.state = .free → v.fallAsleep i = (v, []))

/-- WAKE in ASLEEP returns the chip to RUN and delivers the Pending entries in ascending order; in RUN it answers 0, in
ENTERING_SLEEP BUSY (R165, R182). -/
def Obligations.WakeDeliversPending : Prop :=
  ∀ s : State,
    let u := s.settled
    let cleared (v : Ef24) (i : Nat) : Ef24 :=
      { v with schedule := v.schedule.setIfInBounds i { v.entry i with pending := false } }
    let deliver (v : Ef24) (i : Nat) : Ef24 :=
      if (v.entry i).pending = true then cleared (v.dispatch .schedule (v.entry i).action.toNat) i else v
    u.passes .wake →
      (u.chip = some .asleep →
        exec .wake s = s.answering
          (((List.range 16).foldl deliver { u with chip := some .run }).respond .ok [1])) ∧
      (u.chip = some .run → exec .wake s = s.answering (u.respond .ok [0])) ∧
      (u.chip = some .enteringSleep → exec .wake s = s.answering (u.respond .busy []))

/-- SUPPLY READ answers one word with the supply state, Heavy Load and the coin-cell low flag, and changes nothing (R183); the
codes of the supply states (section 13.5). -/
def Obligations.SupplyReadReports : Prop :=
  (∀ s : State,
    let u := s.settled
    u.passes .supplyRead →
      exec .supplyRead s = s.answering (u.respond .ok
        [BitVec.ofNat 16 ((if u.power.coinLow then 32 else 0) + (if u.power.heavyLoad then 16 else 0) +
          u.power.supply.code)])) ∧
  [Supply.absent, .rising, .good, .low, .failing].map Supply.code = [0, 1, 2, 3, 4]

/-! ## The blocks' own steps (Chapters 2 to 9) -/

/-- A word of a line fetch arrives, FFFFh beyond the strapped capacity; the eighth completes the fetch, whose line is handed over
whole or, orphaned, discarded (R19, R28, R29; the eighth word as it completes: log 33; in ASLEEP too: log 44). A voice keeps the
words it needs and enters PLAYING with 8 words or its cue's last (R70, R73; the fetch point: log 19); a load keeps the words its
image still needs and enters CHECKING with the last (R28, R44); who requests, who is granted the port, and when a fetch is
orphaned (R23, R24, R26, R27). The strapped ROM capacity by its code, in pages of 2048 words (R13), and the ROM word after a cue's
last (R62). -/
def Obligations.LineFetchWordsAndCompletion : Prop :=
  (∀ (s : State) (f : Fetch),
    let u := s.settled
    let a := f.line + f.words.length
    let w := if a < 2048 * Config.romPages u.romCode then u.rom.read a else 0xFFFF
    let freed : Ef24 := { u with romPort := .idle }
    u.coreRunning = true → u.romPort = .fetching f →
      (f.words.length < 7 →
        exec .lineFetchWord s = s.answering { u with romPort := .fetching { f with words := f.words ++ [w] } } ∧
        exec .lineFetchComplete s = s.answering u) ∧
      (f.words.length = 7 → ∀ c ∈ [Instr.lineFetchWord, Instr.lineFetchComplete],
        (f.orphan = true → exec c s = s.answering freed) ∧
        (∀ i, f.orphan = false → f.requester = .voice i →
          exec c s = s.answering (freed.withSound
            (u.sound.withVoice i ((u.sound.voice i).takeLine i f.line (f.words ++ [w])).1,
              ((u.sound.voice i).takeLine i f.line (f.words ++ [w])).2))) ∧
        (f.orphan = false → f.requester = .loader →
          exec c s = s.answering
            { freed with loader := u.loader.map (fun l => l.receive (f.words ++ [w])) }))) ∧
  (∀ (v : Voice) (i line : Nat) (words : List Word),
    let e := v.play.entry
    let kept := if line ≤ v.fetchPoint then (words.drop (v.fetchPoint - line)).take (e.endWord - v.fetchPoint) else []
    let reached := v.fetchPoint + kept.length
    let taken : Voice := { v with
      buffer := v.buffer ++ kept
      fetchPoint := if e.loopNone = false ∧ e.endWord ≤ reached then e.start.toNat + e.loopStart.toNat / e.perWord
        else reached }
    let plays := v.state = .priming ∧ (8 ≤ v.buffer.length + kept.length ∨ e.endWord ≤ reached)
    (plays → v.takeLine i line words = taken.enterPlaying i) ∧ (¬ plays → v.takeLine i line words = (taken, []))) ∧
  (∀ (l : Load) (words : List Word),
    let needed := l.count * l.table.entrySize
    let staged := l.staged ++ words.take (needed - l.staged.length)
    l.receive words = { l with staged := staged, phase := if needed ≤ staged.length then .checking else l.phase }) ∧
  (∀ u : Ef24,
    let buffered (i : Nat) := (u.sound.voice i).buffer.length
    let asks (i : Nat) := i < 6 ∧ u.holdsRequest (.voice i) = true
    let granted (r : Requester) (line : Nat) : Ef24 :=
      { u with romPort := .fetching { requester := r, line := line, words := [], orphan := false } }
    (∀ i, u.holdsRequest (.voice i) = true ↔
      ((u.sound.voice i).state = .priming ∨ (u.sound.voice i).state = .playing) ∧
        (u.sound.voice i).play.entry.isTone = false ∧ buffered i ≤ 24 ∧
        ((u.sound.voice i).play.entry.loopNone = false ∨
          (u.sound.voice i).fetchPoint < (u.sound.voice i).play.entry.endWord)) ∧
    (u.holdsRequest .loader = true ↔
      ∃ l, u.loader = some l ∧ l.phase = .fetching ∧ l.staged.length < l.count * l.table.entrySize) ∧
    (u.coreRunning = false → u.updateRomPort = u) ∧
    (u.coreRunning = true →
      (∀ f, u.romPort = .fetching f → u.updateRomPort =
        { u with romPort := .fetching { f with orphan := f.orphan || !u.holdsRequest f.requester } }) ∧
      (∀ i, u.romPort = .idle → asks i → (∀ j, asks j → buffered i < buffered j ∨ (buffered i = buffered j ∧ i ≤ j)) →
        (u.holdsRequest .loader = true → buffered i ≤ 16) →
        u.updateRomPort = granted (.voice i) (u.sound.voice i).fetchPoint) ∧
      (∀ l, u.romPort = .idle → u.loader = some l → u.holdsRequest .loader = true → (∀ j, asks j → 16 < buffered j) →
        u.updateRomPort = granted .loader (l.source.getD 0 + l.staged.length)) ∧
      (u.romPort = .idle → (∀ j, ¬ asks j) → u.holdsRequest .loader = false → u.updateRomPort = u))) ∧
  [0, 1, 2, 3].map Config.romPages = [1024, 2048, 4096, 8192] ∧
  ∀ e : CueEntry, e.endWord = e.start.toNat + (e.length.toNat + e.perWord - 1) / e.perWord

/-- The owner's check of a complete image: the lowest offending entry refuses it, else the range is swapped in with its
effects; CMD_DONE either way and the Loader IDLE (R15, R45, R52, R64, R88, R159). The check judges every entry of the table
that would result, whose loaded entries are their images, with current bank 0 and their marks clear (R16, R159); what offends
is the owner's rule (R13, R14, R51, R63, R87, R159). The tables, and every field of their entries in the image that is loaded and in
the image that TABLE READ gives (R18, R186 to R188, section 13.4; the bits that an entry's kind does not use, as loaded: log 30). -/
def Obligations.TableCheckSwapsOrRefuses : Prop :=
  (∀ (s : State) (l : Load),
    let u := s.settled
    u.coreRunning = true → u.loader = some l → l.phase = .checking →
      (∀ n, u.offender l = some n →
        exec .tableCheck s = s.answering ({ u with loader := none }.postDone .loadTable .refusedEntry n)) ∧
      (u.offender l = none →
        exec .tableCheck s = s.answering ({ u.swap l with loader := none }.postDone .loadTable .ok 0))) ∧
  (∀ (u : Ef24) (l : Load),
    (l.table = .windows → u.swap l = { u with windows := u.windowsAfter l }) ∧
    (l.table = .actions → u.swap l = { u with actions := u.actionsAfter l }) ∧
    (l.table = .cues → u.swap l = { u with sound := { u.sound with cues := u.cuesAfter l } }) ∧
    (l.table = .patterns →
      u.swap l = { u with rumble := { u.rumble with headers := u.headersAfter l } }.removeRumble .table) ∧
    (l.table = .steps → u.swap l = { u with rumble := { u.rumble with steps := u.stepsAfter l } }.removeRumble .table) ∧
    (l.table = .schedule → u.swap l = { u with schedule := u.scheduleAfter l })) ∧
  (∀ (u : Ef24) (l : Load) (i : Nat),
    let loaded := l.first ≤ i ∧ i < l.first + l.count
    let image := (l.staged.drop ((i - l.first) * l.table.entrySize)).take l.table.entrySize
    (i < 16 → Table.get (u.windowsAfter l) i WindowEntry.unused =
      if loaded then { WindowEntry.ofImage image with bank := 0 } else u.window i) ∧
    (i < 64 → Table.get (u.actionsAfter l) i ActionEntry.invalid =
      if loaded then ActionEntry.ofImage image else u.action i) ∧
    (i < 128 → Table.get (u.cuesAfter l) i CueEntry.empty = if loaded then CueEntry.ofImage image else u.sound.cue i) ∧
    (i < 32 → Table.get (u.headersAfter l) i Header.empty = if loaded then Header.ofImage image else u.rumble.header i) ∧
    (i < 512 → Table.get (u.stepsAfter l) i PatternStep.empty =
      if loaded then PatternStep.ofImage image else Table.get u.rumble.steps i PatternStep.empty) ∧
    (i < 16 → Table.get (u.scheduleAfter l) i ScheduleEntry.unused =
      if loaded then { ScheduleEntry.ofImage image with pending := false, fired := false } else u.entry i)) ∧
  (∀ (u : Ef24) (l : Load),
    let window (i : Nat) := Table.get (u.windowsAfter l) i WindowEntry.unused
    let covers (e : WindowEntry) (block : Nat) :=
      e.kindNamed ≠ some .unused ∧ e.base.toNat ≤ block ∧ block < e.base.toNat + e.span
    let windowOffends (i : Nat) :=
      let e := window i
      let k := e.kindNamed
      let save := k = some .saveStage ∨ k = some .saveLive
      k = none ∨ (k ≠ some .unused ∧ 256 < e.base.toNat + e.span) ∨
        (k = some .rom ∧ Config.romPages u.romCode < e.romPage + e.bankCount * e.span) ∨
        ((save ∨ k = some .flags) ∧ u.save.volume ≠ .ready) ∨ (save ∧ u.save.slotCount ≤ e.slot) ∨
        (k = some .trigger ∧ (e.actionCount = 0 ∨ 64 < e.actionBase + e.actionCount)) ∨
        (∃ j block, j < i ∧ covers (window j) block ∧ covers e block) ∨
        (k = some .control ∧ ∃ j, j < i ∧ (window j).kindNamed = some .control) ∨
        (i = l.first ∧ ∀ j, j < 16 → (window j).kindNamed ≠ some .control)
    let actionOffends (i : Nat) :=
      let e := Table.get (u.actionsAfter l) i ActionEntry.invalid
      e.kindNamed = none ∨
        ((e.kindNamed = some .playCue ∨ e.kindNamed = some .rumble) ∧ e.operandB ≠ 0xFFFF ∧ 7 < e.operandB.toNat) ∨
        (e.kindNamed ≠ some .invalid ∧ e.next ≠ 0xFFFF ∧ 63 < e.next.toNat)
    let cueOffends (i : Nat) :=
      let e := Table.get (u.cuesAfter l) i CueEntry.empty
      e.formatNamed = none ∨
        (e.length ≠ 0 ∧
          ((e.linked ≠ 255 ∧ 31 < e.linked.toNat) ∨
            (e.formatNamed = some .tone ∧
              (65535 < e.length.toNat ∨ e.rate.toNat < 20 ∨ 8000 < e.rate.toNat ∨ e.loopNone = false)) ∨
            (e.formatNamed ≠ some .tone ∧
              (e.rate.toNat < 1000 ∨ 32768 < e.rate.toNat ∨
                (e.loopNone = false ∧ e.length.toNat ≤ e.loopStart.toNat) ∨
                2048 * Config.romPages u.romCode < e.start.toNat + (e.length.toNat + e.perWord - 1) / e.perWord))))
    let headerOffends (i : Nat) :=
      let h := Table.get (u.headersAfter l) i Header.empty
      64 < h.stepCount.toNat ∨ (1 ≤ h.stepCount.toNat ∧ 512 < h.firstStep.toNat + h.stepCount.toNat)
    let stepOffends (i : Nat) := (Table.get (u.stepsAfter l) i PatternStep.empty).kindNamed = none
    let entryOffends (i : Nat) :=
      let e := Table.get (u.scheduleAfter l) i ScheduleEntry.unused
      e.kindNamed = none ∨ (e.kindNamed ≠ some .unused ∧ 63 < e.action.toNat) ∨
        (e.kindNamed = some .atTime ∧ (23 < e.hour ∨ 59 < e.minute))
    let offends (i : Nat) := match l.table with
      | .windows => i < 16 ∧ windowOffends i
      | .actions => i < 64 ∧ actionOffends i
      | .cues => i < 128 ∧ cueOffends i
      | .patterns => i < 32 ∧ headerOffends i
      | .steps => i < 512 ∧ stepOffends i
      | .schedule => i < 16 ∧ entryOffends i
    (∀ n, u.offender l = some n ↔ offends n ∧ ∀ m, offends m → n ≤ m) ∧ (u.offender l = none ↔ ∀ m, ¬ offends m)) ∧
  (∀ ws : List Word,
    let w (i : Nat) : Word := ws.getD i 0
    WindowEntry.ofImage ws =
      { base := (w 0).extractLsb' 8 8, kind := (w 0).extractLsb' 0 4, spanCode := (w 1).extractLsb' 0 8,
        target := (w 2).extractLsb' 0 13, bankSelect := (w 3).getLsbD 15, count := (w 3).extractLsb' 0 8, bank := 0 } ∧
    ActionEntry.ofImage ws = { kind := (w 0).extractLsb' 0 4, operandA := w 1, operandB := w 2, next := w 3 } ∧
    CueEntry.ofImage ws =
      { notify := (w 0).getLsbD 11, priority := (w 0).extractLsb' 8 3, volume := (w 0).extractLsb' 4 4,
        format := (w 0).extractLsb' 0 3, linked := (w 1).extractLsb' 0 8, start := (w 1).extractLsb' 8 8 ++ w 2,
        length := (w 3).extractLsb' 0 8 ++ w 4, loopNone := (w 5).getLsbD 15,
        loopStart := (w 5).extractLsb' 0 8 ++ w 6, rate := w 7 } ∧
    Header.ofImage ws =
      { stepCount := (w 0).extractLsb' 9 7, firstStep := (w 0).extractLsb' 0 9, notify := (w 1).getLsbD 7,
        priority := (w 1).extractLsb' 4 3, repeats := (w 1).extractLsb' 0 4 } ∧
    PatternStep.ofImage ws =
      { kind := (w 0).extractLsb' 14 2, strength := (w 0).extractLsb' 8 4, duration := (w 0).extractLsb' 0 8 } ∧
    ScheduleEntry.ofImage ws =
      { kind := (w 0).extractLsb' 0 4, enabled := (w 0).getLsbD 4, wake := (w 0).getLsbD 5,
        action := (w 1).extractLsb' 0 8, word2 := w 2, word3 := w 3, pending := false, fired := false }) ∧
  (∀ e : WindowEntry,
    e.kindNamed = [WindowKind.unused, .rom, .saveStage, .saveLive, .flags, .trigger, .control][e.kind.toNat]? ∧
    e.span = e.spanCode.toNat + 1 ∧ e.romPage = e.target.toNat ∧ e.bankCount = e.count.toNat + 1 ∧
    e.slot = (e.target.extractLsb' 0 3).toNat ∧ e.actionBase = (e.target.extractLsb' 0 6).toNat ∧
    e.actionCount = (e.count.extractLsb' 0 7).toNat) ∧
  (∀ e : ActionEntry, e.kindNamed = [ActionKind.invalid, .playCue, .stopCue, .silence, .rumble, .rumbleCut, .flagSet,
    .flagClear, .flagClearRange, .post][e.kind.toNat]?) ∧
  (∀ e : CueEntry, e.formatNamed = [CueFormat.tone, .pcm8, .pcm16le, .pcm16be, .adpcm4][e.format.toNat]?) ∧
  (∀ e : PatternStep, e.kindNamed = [StepKind.drive, .coast, .brake][e.kind.toNat]?) ∧
  (∀ e : ScheduleEntry,
    e.kindNamed = [ScheduleKind.unused, .atTime, .onRollover, .onGameDay][e.kind.toNat]? ∧
    e.hour = (e.word2.extractLsb' 8 8).toNat ∧ e.minute = (e.word2.extractLsb' 0 8).toNat ∧
    e.target = (e.word2.extractLsb' 0 8 ++ e.word3).toNat ∧
    ∀ weekday, e.onWeekday weekday = true ↔ weekday < 7 ∧ e.word3.getLsbD weekday = true) ∧
  (∀ n : Nat, tableOfId n = [TableId.windows, .actions, .cues, .patterns, .steps, .schedule][n]?) ∧
  [TableId.windows, .actions, .cues, .patterns, .steps, .schedule].map TableId.entries = [16, 64, 128, 32, 512, 16] ∧
  [TableId.windows, .actions, .cues, .patterns, .steps, .schedule].map TableId.entrySize = [4, 4, 8, 2, 1, 4] ∧
  ∀ (u : Ef24) (i : Nat),
    let v := u.window i
    let c := u.sound.cue i
    let h := u.rumble.header i
    let x := Table.get u.rumble.steps i PatternStep.empty
    let e := u.entry i
    let mark (b : Bool) (value : Nat) : Nat := if b = true then value else 0
    u.entryImage .windows i =
      [ BitVec.ofNat 16 (v.base.toNat * 256 + v.kind.toNat),
        BitVec.ofNat 16 ((if v.kindNamed = some .rom then v.bank % 256 * 256 else 0) + v.spanCode.toNat),
        BitVec.ofNat 16 v.target.toNat,
        BitVec.ofNat 16 (mark v.bankSelect 32768 + v.count.toNat) ] ∧
    u.entryImage .actions i =
      [ BitVec.ofNat 16 (u.action i).kind.toNat, (u.action i).operandA, (u.action i).operandB, (u.action i).next ] ∧
    u.entryImage .cues i =
      [ BitVec.ofNat 16 (mark c.notify 2048 + c.priority.toNat * 256 + c.volume.toNat * 16 + c.format.toNat),
        BitVec.ofNat 16 (c.start.toNat / 65536 * 256 + c.linked.toNat),
        BitVec.ofNat 16 c.start.toNat,
        BitVec.ofNat 16 (c.length.toNat / 65536),
        BitVec.ofNat 16 c.length.toNat,
        BitVec.ofNat 16 (mark c.loopNone 32768 + c.loopStart.toNat / 65536),
        BitVec.ofNat 16 c.loopStart.toNat,
        c.rate ] ∧
    u.entryImage .patterns i =
      [ BitVec.ofNat 16 (h.stepCount.toNat * 512 + h.firstStep.toNat),
        BitVec.ofNat 16 (mark h.notify 128 + h.priority.toNat * 16 + h.repeats.toNat) ] ∧
    u.entryImage .steps i = [BitVec.ofNat 16 (x.kind.toNat * 16384 + x.strength.toNat * 256 + x.duration.toNat)] ∧
    u.entryImage .schedule i =
      [ BitVec.ofNat 16 (mark e.fired 32768 + mark e.pending 16384 + mark e.wake 32 + mark e.enabled 16 + e.kind.toNat),
        BitVec.ofNat 16 e.action.toNat,
        e.word2,
        e.word3 ]

/-- An output sample: each voice in voice order takes its part, and AOUT takes the mix, fraction dropped toward zero and held
within the signed 16-bit range (R80; the voice order: log 21). A PLAYING sampled voice advances its phase and takes the sample
that falls due (the first one: log 17), from the word in hand, else the buffer, else as an underrun (R72, R74; the fetch point after
it: log 19); a TONE gives its square wave (R66, its end: log 18); a word gives its samples by the cue's format (R65; log 20); a
RELEASING voice adds its held sample on its ramp (R79). -/
def Obligations.OutputSampleAdvancesAndMixes : Prop :=
  (∀ s : State,
    let u := s.settled
    let x := u.sound.onAll Voice.output
    let sum : Int := (x.1.voice 0).contribution + (x.1.voice 1).contribution + (x.1.voice 2).contribution +
      (x.1.voice 3).contribution + (x.1.voice 4).contribution + (x.1.voice 5).contribution
    let mixed : Int := (sum * u.sound.masterVolume).tdiv (15 * 15 * 65536)
    u.coreRunning = true →
      exec .outputSample s = s.answering
        (u.withSound ({ x.1 with aout := max (-32768) (min 32767 mixed) }, x.2))) ∧
  (∀ (v : Voice) (i : Nat), v.state = .playing → v.play.entry.isTone = false →
    let phase := v.phase + v.play.entry.rate.toNat
    (phase < 32768 → v.output i = ({ v with phase := phase, elapsed := v.elapsed + 1 }, [])) ∧
    (32768 ≤ phase → v.output i = { v with phase := phase - 32768, elapsed := v.elapsed + 1 }.takeSample i) ∧
    (32768 ≤ phase → v.buffer = [] → v.held = none →
      v.output i =
        ({ v with phase := phase - 32768, elapsed := v.elapsed + 1, current := 0, position := v.position + 1,
                  underruns := min 65535 (v.underruns + 1), underrunPosted := true,
                  fetchPoint := v.pointAfter (v.position + 1), predictor := 0, exponent := 0 },
          if v.underrunPosted = true then [] else [.post .underrun i v.play.cue]))) ∧
  (∀ (v : Voice) (i : Nat),
    let e := v.play.entry
    let address := e.start.toNat + v.position / e.perWord
    let sample (w : Word) := decodeSample e w (v.position % e.perWord) v.predictor v.exponent
    let taken (w : Word) (buffer : List Word) : Voice :=
      { v with buffer := buffer, held := some (address, w), current := (sample w).1, predictor := (sample w).2.1,
               exponent := (sample w).2.2, position := v.position + 1 }
    let inHand := ∃ w, v.held = some (address, w)
    (∀ w, v.held = some (address, w) → v.takeSample i = (taken w v.buffer, [])) ∧
    (∀ w rest, ¬ inHand → v.buffer = w :: rest → v.takeSample i = (taken w rest, [])) ∧
    (¬ inHand → v.buffer = [] → v.takeSample i =
      ({ v with current := 0, position := v.position + 1, underruns := min 65535 (v.underruns + 1),
                underrunPosted := true, held := none, predictor := 0, exponent := 0
                fetchPoint := if v.position + 1 < e.length.toNat then e.start.toNat + (v.position + 1) / e.perWord
                  else if e.loopNone = false then e.start.toNat + e.loopStart.toNat / e.perWord
                  else e.start.toNat + (e.length.toNat + e.perWord - 1) / e.perWord },
        if v.underrunPosted = true then [] else [.post .underrun i v.play.cue]))) ∧
  (∀ (e : CueEntry) (w : Word) (place : Nat) (predictor : Int) (exponent : Nat),
    let code := (w.extractLsb' (4 * place) 4).toNat
    let magnitude := code % 8
    let difference : Int := ((2 * magnitude + 1) * (16 * 2 ^ exponent) / 2 : Nat)
    let moved := max (-32768) (min 32767 (if 8 ≤ code then predictor - difference else predictor + difference))
    (e.formatNamed = some .pcm16le → decodeSample e w place predictor exponent = (w.toInt, predictor, exponent)) ∧
    (e.formatNamed = some .pcm16be →
      decodeSample e w place predictor exponent = ((w.rotateLeft 8).toInt, predictor, exponent)) ∧
    (e.formatNamed = some .pcm8 →
      decodeSample e w place predictor exponent =
        ((w.extractLsb' (8 * place) 8).toInt * 256, predictor, exponent)) ∧
    (e.formatNamed = some .adpcm4 →
      decodeSample e w place predictor exponent =
        (moved, moved, if magnitude ≤ 1 then exponent - 1 else if magnitude ≤ 5 then exponent else min 11 (exponent + 1)))) ∧
  (∀ e : CueEntry, (e.isTone = true ↔ e.formatNamed = some .tone ∨ e.formatNamed = none) ∧
    (e.formatNamed = some .pcm8 → e.perWord = 2) ∧ (e.formatNamed = some .pcm16le → e.perWord = 1) ∧
    (e.formatNamed = some .pcm16be → e.perWord = 1) ∧ (e.formatNamed = some .adpcm4 → e.perWord = 4)) ∧
  ∀ (v : Voice) (i : Nat),
    (v.state = .playing → v.play.entry.isTone = true → v.output i =
      ({ v with current := if 2 * v.play.entry.rate.toNat * v.elapsed / 32768 % 2 = 0 then 32767 else -32767
                elapsed := v.elapsed + 1, position := (v.elapsed + 1) * 1000 / 32768 }, [])) ∧
    (v.state = .priming ∨ v.state = .releasing → v.output i = ({ v with elapsed := v.elapsed + 1 }, [])) ∧
    (v.state = .free → v.output i = (v, [])) ∧
    (v.state = .playing → v.contribution = v.current * v.play.entry.volume.toNat * 65536) ∧
    (v.state = .releasing →
      v.contribution = v.current * v.play.entry.volume.toNat * max 0 (65536 - 1000 * (v.elapsed : Int))) ∧
    (v.state = .free ∨ v.state = .priming → v.contribution = 0)

/-- A PRIMING voice at the prime limit enters PLAYING, submits its linked pattern, and its first sample falls due at once: from
the buffer, or an underrun (R70, R71, R74); a looping cue returns to its loop start (its fetch point: log 19); a cue that has
ended frees its voice (when a TONE ends: log 18); a ramp that has reached 0 frees its voice or begins its next cue (R75, R76, R79;
the prime limit in output samples: log 16, log 17; when it happens by itself: SettleAndConcludeTouchOnlyDerived). -/
def Obligations.VoiceEventsHappenWhenDue : Prop :=
  (∀ (s : State) (i : Nat),
    let v := s.sound.voice i
    let loopWord := v.play.entry.start.toNat + v.play.entry.loopStart.toNat / v.play.entry.perWord
    let freed : Voice :=
      { v with state := .free, buffer := [], held := none, next := none, linked := false, elapsed := 0 }
    let returned : Voice := { v with
      position := v.play.entry.loopStart.toNat, held := none, predictor := 0, exponent := 0
      fetchPoint := if v.buffer = [] then loopWord else v.fetchPoint }
    let finished := if v.play.entry.notify = true then
      [SoundEffect.post .cueEnd v.play.cue (min v.underruns 16383)] else []
    (s.coreRunning = true → v.loopDue = true →
      exec (.loopReturn i) s = s.answering { s.toEf24 with sound := s.sound.withVoice i returned }) ∧
    (s.coreRunning = true → v.endDue = true →
      exec (.cueNaturalEnd i) s = s.answering (s.toEf24.withSound (s.sound.withVoice i freed,
        finished ++ if v.linked = true then [.stopped i] else []))) ∧
    (s.coreRunning = true → v.state = .releasing → 66 ≤ v.elapsed →
      (v.next = none →
        exec (.rampEnd i) s = s.answering { s.toEf24 with sound := s.sound.withVoice i freed }) ∧
      (∀ p, v.next = some p → p.entry.isTone = false →
        exec (.rampEnd i) s = s.answering { s.toEf24 with sound := s.sound.withVoice i (v.prime p) }) ∧
      (∀ p, v.next = some p → p.entry.isTone = true →
        exec (.rampEnd i) s = s.answering (s.toEf24.withSound
          (s.sound.withVoice i ((v.prime p).enterPlaying i).1, ((v.prime p).enterPlaying i).2))))) ∧
  (∀ v : Voice,
    (v.loopDue = true ↔ v.state = .playing ∧ v.play.entry.isTone = false ∧ v.play.entry.loopNone = false ∧
      v.play.entry.length.toNat ≤ v.position) ∧
    (v.endDue = true ↔ v.state = .playing ∧
      ((v.play.entry.isTone = true ∧ v.play.entry.length.toNat * 32768 ≤ v.elapsed * 1000) ∨
        (v.play.entry.isTone = false ∧ v.play.entry.loopNone = true ∧ v.play.entry.length.toNat ≤ v.position)))) ∧
  (∀ (s : State) (i : Nat),
    let u := s.settled
    let v := u.sound.voice i
    u.coreRunning = true → v.state = .priming → 655 ≤ v.elapsed →
      exec (.primeLimit i) s = s.answering (u.onVoice Voice.primeLimit i)) ∧
  (∀ (u : Ef24) (i : Nat),
    let v := u.sound.voice i
    let e := v.play.entry
    let address := e.start.toNat + v.position / e.perWord
    let links := if e.linked = 255 then [] else [SoundEffect.link i e.linked.toNat v.play.priority]
    let playing : Voice :=
      { v with state := .playing, elapsed := 0, phase := 0, linked := if e.linked = 255 then v.linked else true }
    let sample (w : Word) := decodeSample e w (v.position % e.perWord) v.predictor v.exponent
    let taken (w : Word) (buffer : List Word) : Voice :=
      { playing with buffer := buffer, held := some (address, w), current := (sample w).1, predictor := (sample w).2.1,
                     exponent := (sample w).2.2, position := v.position + 1 }
    let missed : Voice :=
      { playing with current := 0, position := v.position + 1, underruns := min 65535 (v.underruns + 1),
                     underrunPosted := true, held := none, predictor := 0, exponent := 0
                     fetchPoint := v.pointAfter (v.position + 1) }
    let inHand := ∃ w, v.held = some (address, w)
    let becomes (x : Voice) (asks : List SoundEffect) : Ef24 :=
      u.withSound ({ u.sound with voices := u.sound.voices.setIfInBounds i x }, links ++ asks)
    v.state = .priming →
      (∀ w, v.held = some (address, w) → u.onVoice Voice.primeLimit i = becomes (taken w v.buffer) []) ∧
      (∀ w rest, ¬ inHand → v.buffer = w :: rest → u.onVoice Voice.primeLimit i = becomes (taken w rest) []) ∧
      (¬ inHand → v.buffer = [] → u.onVoice Voice.primeLimit i =
        becomes missed (if v.underrunPosted = true then [] else [.post .underrun i v.play.cue]))) ∧
  ∀ (v : Voice) (position : Nat),
    let e := v.play.entry
    v.pointAfter position =
      if position < e.length.toNat then e.start.toNat + position / e.perWord
      else if e.loopNone = false then e.start.toNat + e.loopStart.toNat / e.perWord
      else e.start.toNat + (e.length.toNat + e.perWord - 1) / e.perWord

/-- A tick takes one tick from the step in hand and moves the motor's counts; a step without ticks gives way to the next or,
after the last of a play, to step 0 with one play fewer; the last play's end posts RUMBLE_END, if the request's notify is set, with
its pattern, source and effective priority, and starts the front of the queue or the end brake (R92, R94, section 13.3). What the motor
does before a step's end: the end of a kick, a coast or an end brake whose count has run out (R92, R94, R95). -/
def Obligations.TicksMoveThePattern : Prop :=
  (∀ s : State,
    let u := s.settled
    let m := u.rumble.motor
    u.coreRunning = true →
      exec .tick s = s.answering { u with rumble := { u.rumble with
        playing := u.rumble.playing.map (fun p => { p with ticksLeft := p.ticksLeft - 1 })
        motor := match m.state with
          | .kick => { m with kickLeft := m.kickLeft - 1 }
          | .coasting => { m with coastCount := m.coastCount + 1 }
          | .braking => { m with brakeLeft := m.brakeLeft - 1 }
          | .stopped => m
          | .driving => m } }) ∧
  (∀ (s : State) (p : Playing),
    let u := s.toEf24.motorEnds
    let r := u.rumble
    let h := r.header p.request.pattern
    let last := h.stepCount.toNat ≤ p.step + 1
    let goes (step : Nat) (playsLeft : Option Nat) : Ef24 := { u with rumble := { r with
      playing := some { p with step := step, playsLeft := playsLeft
                               ticksLeft := (r.patternStep p.request.pattern step).duration.toNat }
      motor := r.motor.begin (r.patternStep p.request.pattern step) u.ceiling } }
    u.coreRunning = true → r.playing = some p → p.ticksLeft = 0 →
      (¬ last → exec .stepEnd s = s.answering (goes (p.step + 1) p.playsLeft)) ∧
      (last → p.playsLeft ≠ some 0 → exec .stepEnd s = s.answering (goes 0 (p.playsLeft.map (· - 1)))) ∧
      (last → p.playsLeft = some 0 →
        let motor := if r.motor.state = .braking then r.motor.stop else r.motor
        (r.queue = [] →
          exec .patternFinished s = s.answering
            ({ u with rumble := { r with playing := none, motor := motor.endBrake } }.postAll p.request.endPost)) ∧
        (∀ q rest, r.queue = q :: rest →
          exec .patternFinished s = s.answering
            ({ u with rumble := { r with playing := none, queue := rest, motor := motor }.start q u.ceiling }.postAll
              p.request.endPost)))) ∧
  (∀ u : Ef24,
    let m := u.rumble.motor
    let moved (state : MotorState) : Ef24 := { u with rumble := { u.rumble with motor := { m with
      state := state, kickLeft := 0, coastCount := 0, brakeLeft := 0 } } }
    let kicked := m.state = .kick ∧ m.kickLeft = 0
    let stopped := (m.state = .coasting ∧ 16 ≤ m.coastCount) ∨
      (m.state = .braking ∧ m.brakeLeft = 0 ∧ u.rumble.playing = none)
    (u.coreRunning = false ∨ (¬ kicked ∧ ¬ stopped) → u.motorEnds = u) ∧
    (u.coreRunning = true → kicked → u.motorEnds = (moved .driving).conclude) ∧
    (u.coreRunning = true → stopped → u.motorEnds = (moved .stopped).conclude)) ∧
  ∀ q : Request, q.endPost =
    if q.notify = true then [(.rumbleEnd, q.pattern, (match q.source with
      | .action => 0
      | .command => 1
      | .cueLink => 2) * 256 + q.priority % 8)]
    else []

/-- The kick's third tick ends in DRIVING, sixteen coast ticks end in STOPPED, and the end brake's fourth tick ends in STOPPED;
the motor's table for a step that begins and for a change of the Drive Ceiling, the end brake, and the drive strength of each state
(R92, R94, R95, R97). The Drive Ceiling (R97) and Heavy Load (R98). The motor outputs in each state, their duties in fifteenths: MA and
MB are never driven together (R96; computed, not stored: log 36). -/
def Obligations.MotorEndsWhenCountsRunOut : Prop :=
  (∀ s : State,
    let r := s.rumble
    let stopped (state : MotorState) : Ef24 := { s.toEf24 with rumble := { r with motor := { r.motor with
      state := state, kickLeft := 0, coastCount := 0, brakeLeft := 0 } } }
    s.coreRunning = true →
      (r.motor.state = .kick → r.motor.kickLeft = 0 → exec .kickEnd s = s.answering (stopped .driving)) ∧
      (r.motor.state = .coasting → 16 ≤ r.motor.coastCount → exec .coastStop s = s.answering (stopped .stopped)) ∧
      (r.motor.state = .braking → r.motor.brakeLeft = 0 → r.playing = none →
        exec .endBrakeDone s = s.answering (stopped .stopped))) ∧
  (∀ (m : Motor) (x : PatternStep) (ceiling : Nat),
    let at_ (state : MotorState) (kick brake : Nat) : Motor :=
      { m with state := state, kickLeft := kick, coastCount := 0, brakeLeft := brake }
    let driven := x.kindNamed = some .drive ∧ 0 < min x.strength.toNat ceiling
    (x.kindNamed = some .brake → m.begin x ceiling = at_ .braking 0 0) ∧
    (driven → m.begin x ceiling = match m.state with
      | .stopped => at_ .kick 3 0
      | .kick => at_ .driving 0 0
      | .driving => at_ .driving 0 0
      | .coasting => at_ .driving 0 0
      | .braking => at_ .kick 3 0) ∧
    (x.kindNamed ≠ some .brake → ¬ driven → m.begin x ceiling = match m.state with
      | .stopped => m
      | .kick => at_ .coasting 0 0
      | .driving => at_ .coasting 0 0
      | .coasting => m
      | .braking => at_ .stopped 0 0) ∧
    (x.kindNamed = some .drive → driven → m.limit x ceiling = match m.state with
      | .stopped => at_ .kick 3 0
      | .kick => m
      | .driving => m
      | .coasting => at_ .driving 0 0
      | .braking => m) ∧
    (x.kindNamed = some .drive → ¬ driven → m.limit x ceiling = match m.state with
      | .stopped => m
      | .kick => at_ .coasting 0 0
      | .driving => at_ .coasting 0 0
      | .coasting => m
      | .braking => m) ∧
    (x.kindNamed ≠ some .drive → m.limit x ceiling = m) ∧
    m.endBrake = (if m.state = .stopped then m else at_ .braking 0 4) ∧ m.stop = at_ .stopped 0 0) ∧
  (∀ (r : Rumble) (ceiling : Nat),
    let x := r.playing.map (fun p => r.patternStep p.request.pattern p.step)
    let m := match x with
      | some step => r.motor.limit step ceiling
      | none => r.motor
    r.follow ceiling = { r with motor := { m with strength := match m.state with
      | .stopped => 0
      | .kick => min 15 ceiling
      | .driving => (match x with
        | some step => if step.kindNamed = some .drive then min step.strength.toNat ceiling else 0
        | none => 0)
      | .coasting => 0
      | .braking => ceiling } }) ∧
  (∀ u : Ef24,
    let m := u.rumble.motor
    (m.state = .stopped ∨ m.state = .coasting → u.dutyMA = 0 ∧ u.dutyMB = 0) ∧
    (m.state = .kick ∨ m.state = .driving → u.dutyMA = m.strength ∧ u.dutyMB = 0) ∧
    (m.state = .braking → u.dutyMA = 0 ∧ u.dutyMB = m.strength) ∧
    (u.dutyMA = 0 ∨ u.dutyMB = 0)) ∧
  (∀ u : Ef24,
    let supply := if u.power.supply = .good then 15 else if u.power.supply = .low then 6 else 0
    (u.rumble.enabled = false → u.ceiling = 0) ∧
    (u.rumble.enabled = true → u.save.guard = false → u.ceiling = supply) ∧
    (u.rumble.enabled = true → u.save.guard = true → u.ceiling = min supply u.rumble.guardStrength)) ∧
  ∀ r : Rumble, r.heavyLoad = true ↔ r.heavyThreshold ≤ r.motor.strength

/-! ## The SRAM port and the sequencer (Chapter 7) -/

/-- The access in progress completes: the oldest posted write, or the sequencer's next word — a write of its list, a word into
the CRC, a word copied (R110, R111, R113, R115, R117, R118, R121). A word write changes its word and no other; several are made in
order. -/
def Obligations.PortAccessesComplete : Prop :=
  (∀ s : State,
    let u := s.settled
    let writes (a : Nat) (w : Word) (q : Sequencer) : Ef24 :=
      { u with sram := u.sram.write a w, save := { u.save with sequencer := q, port := none } }
    let goes (q : Sequencer) : Ef24 := { u with save := { u.save with sequencer := q, port := none } }
    (∀ p rest, u.save.port = some .drain → u.save.buffer = p :: rest →
      exec .postedWriteDrain s = s.answering
        { u with sram := u.sram.write p.address p.data, save := { u.save with buffer := rest, port := none } }) ∧
    (u.save.port = some .sequencer →
      (∀ sizes a w rest, u.save.sequencer = .formatting sizes ((a, w) :: rest) →
        exec .sequencerAccess s = s.answering (writes a w (.formatting sizes rest))) ∧
      (∀ commit k r a w rest, u.save.sequencer = .intent commit k r ((a, w) :: rest) →
        exec .sequencerAccess s = s.answering (writes a w (.intent commit k r rest))) ∧
      (∀ commit k r a w rest, u.save.sequencer = .switching commit k r ((a, w) :: rest) →
        exec .sequencerAccess s = s.answering (writes a w (.switching commit k r rest))) ∧
      (∀ commit k a w rest, u.save.sequencer = .closing commit k ((a, w) :: rest) →
        exec .sequencerAccess s = s.answering (writes a w (.closing commit k rest))) ∧
      (∀ k length index crc, u.save.sequencer = .scanning k length index crc → index < length / 2 →
        exec .sequencerAccess s = s.answering (goes (.scanning k length (index + 1)
          (crcWord crc (u.sram.read (u.save.stagingBase k + index)))))) ∧
      (∀ k index crc, u.save.sequencer = .verifying k index crc → index < (u.save.slot k).record.dataLength.toNat / 2 →
        exec .sequencerAccess s = s.answering (goes (.verifying k (index + 1)
          (crcWord crc (u.sram.read (u.save.liveBase k + index)))))) ∧
      (∀ k index, u.save.sequencer = .copying k index none → index < u.save.slotWords k →
        ((u.save.slot k).record.valid = true →
          exec .sequencerAccess s = s.answering
            (goes (.copying k index (some (u.sram.read (u.save.liveBase k + index)))))) ∧
        ((u.save.slot k).record.valid = false →
          exec .sequencerAccess s = s.answering
            (writes (u.save.stagingBase k + index) 0 (.copying k (index + 1) none)))) ∧
      (∀ k index w, u.save.sequencer = .copying k index (some w) → index < u.save.slotWords k →
        (u.save.slot k).record.valid = true →
          exec .sequencerAccess s = s.answering
            (writes (u.save.stagingBase k + index) w (.copying k (index + 1) none))))) ∧
  (∀ (m : Memory) (a b : Nat) (w : Word), (m.wf → (m.write a w).read a = w) ∧ (a ≠ b → (m.write a w).read b = m.read b)) ∧
  ∀ (m : Memory) (a : Nat) (w : Word) (rest : List (Nat × Word)),
    m.writeAll [] = m ∧ m.writeAll ((a, w) :: rest) = (m.write a w).writeAll rest

/-- The ends of a commit's and a discard's steps: DRAINING with no entry of the slot left, SCANNING and GUARDING with Heavy
Load, INTENT, SWITCHING and CLOSING with their last word written (R114, R115, R117, R118, R120; a format's capacity code, 3 taken as
0: log 23); the same ends by their rows while the step's last access is still in progress, which then completes first (log 10); the
words of a slot record (R105, R106, section 13.6; their order: log 25). -/
def Obligations.CommitStepsFollow : Prop :=
  (∀ (s : State) (k : Nat),
    let u := s.toEf24
    let x := u.save.slot k
    let drained := ∀ p ∈ u.save.buffer, p.slot ≠ k
    let at_ (q : Sequencer) : Ef24 := { u with save := { u.save with sequencer := q } }
    let record (length : Nat) (crc : Word) : SlotRecord :=
      { valid := true, live := x.stagingImage, generation := x.record.generation + 1, dataLength := BitVec.ofNat 16 length,
        crc := crc, gameDay := BitVec.ofNat 32 u.calendar.gameDay, playSeconds := BitVec.ofNat 32 u.calendar.timerSeconds,
        instant := if u.calendar.valid = true then some (BitVec.ofNat 32 u.calendar.now.instant) else none }
    u.coreRunning = true →
      (∀ length, u.save.sequencer = .commitDraining k length → drained →
        exec .drainingDone s = s.answering (at_ (.scanning k length 0 0xFFFF))) ∧
      (u.save.sequencer = .seedDraining k → drained → exec .drainingDone s = s.answering (at_ (.copying k 0 none))) ∧
      (∀ sizes, u.save.sequencer = .formatDraining sizes → u.save.buffer = [] →
        exec .drainingDone s = s.answering
          (at_ (.formatting sizes (formatWrites sizes (Config.sramCodeTaken u.sramCode))))) ∧
      (∀ length index crc, (u.save.sequencer = .scanning k length index crc ∧ length / 2 ≤ index) ∨
          (u.save.sequencer = .guarding k length crc ∧ u.rumble.heavyLoad = false) →
        exec .scanDone s = s.answering
          (if u.rumble.heavyLoad = true then at_ (.guarding k length crc)
            else at_ (.intent true k (record length crc) (intentRecordWrites k (record length crc) x.record)))) ∧
      (∀ commit r, u.save.sequencer = .intent commit k r [] →
        exec .intentDone s = s.answering { u with save := { u.save with
          slots := u.save.slots.setIfInBounds k
            { x with phase := .intentWritten (if commit = true then r.live.other else .a) }
          sequencer := .switching commit k r (slotRecordWrites k r) } }) ∧
      (∀ commit r, u.save.sequencer = .switching commit k r [] →
        exec .switchingDone s = s.answering { u with save := { u.save with
          slots := u.save.slots.setIfInBounds k { x with record := r, phase := .none }
          sequencer := .closing commit k [(144, 0)] } }) ∧
      (u.save.sequencer = .closing true k [] →
        exec .closingDone s = s.answering
          ({ u with save := { u.save with
              guard := false, slots := u.save.slots.setIfInBounds k { x with bad := false }
              sequencer := .idle } }.postDone .slotCommit .ok k)) ∧
      (u.save.sequencer = .closing false k [] →
        exec .closingDone s = s.answering ((at_ .idle).postDone .slotDiscard .ok k))) ∧
  (∀ (s : State) (k : Nat),
    let u := s.settled
    let x := u.save.slot k
    let at_ (v : Ef24) (q : Sequencer) : Ef24 := { v with save := { v.save with sequencer := q, port := none } }
    let wrote (a : Nat) (w : Word) : Ef24 := { u with sram := u.sram.write a w }
    let slotted (v : Ef24) (y : Slot) : Ef24 := { v with save := { v.save with slots := v.save.slots.setIfInBounds k y } }
    let record (length : Nat) (crc : Word) : SlotRecord :=
      { valid := true, live := x.stagingImage, generation := x.record.generation + 1, dataLength := BitVec.ofNat 16 length,
        crc := crc, gameDay := BitVec.ofNat 32 u.calendar.gameDay, playSeconds := BitVec.ofNat 32 u.calendar.timerSeconds,
        instant := if u.calendar.valid = true then some (BitVec.ofNat 32 u.calendar.now.instant) else none }
    u.save.port = some .sequencer →
      (∀ length index crc, u.save.sequencer = .scanning k length index crc → index + 1 = length / 2 →
        let crc' := crcWord crc (u.sram.read (u.save.stagingBase k + index))
        exec .scanDone s = s.answering
          (if u.rumble.heavyLoad = true then at_ u (.guarding k length crc')
            else at_ u (.intent true k (record length crc') (intentRecordWrites k (record length crc') x.record)))) ∧
      (∀ commit r a w, u.save.sequencer = .intent commit k r [(a, w)] →
        exec .intentDone s = s.answering
          (slotted (at_ (wrote a w) (.switching commit k r (slotRecordWrites k r)))
            { x with phase := .intentWritten (if commit = true then r.live.other else .a) })) ∧
      (∀ commit r a w, u.save.sequencer = .switching commit k r [(a, w)] →
        exec .switchingDone s = s.answering
          (slotted (at_ (wrote a w) (.closing commit k [(144, 0)])) { x with record := r, phase := .none })) ∧
      (∀ a w, u.save.sequencer = .closing true k [(a, w)] →
        let v := slotted (at_ (wrote a w) .idle) { x with bad := false }
        exec .closingDone s = s.answering ({ v with save := { v.save with guard := false } }.postDone .slotCommit .ok k)) ∧
      (∀ a w, u.save.sequencer = .closing false k [(a, w)] →
        exec .closingDone s = s.answering ((at_ (wrote a w) .idle).postDone .slotDiscard .ok k))) ∧
  (Image.a.other = .b ∧ Image.b.other = .a ∧ [0, 1, 2, 3].map Config.sramCodeTaken = [0, 1, 2, 0]) ∧
  ∀ (k : Nat) (r : SlotRecord),
    let words : List Word :=
      [ BitVec.ofNat 16 ((if r.valid then 1 else 0) + (if r.live = .b then 2 else 0)),
        r.generation, r.dataLength, r.crc,
        BitVec.ofNat 16 (r.gameDay.toNat / 65536), BitVec.ofNat 16 r.gameDay.toNat,
        BitVec.ofNat 16 (r.playSeconds.toNat / 65536), BitVec.ofNat 16 r.playSeconds.toNat,
        (match r.instant with | some t => BitVec.ofNat 16 (t.toNat / 65536) | none => 0xFFFF),
        (match r.instant with | some t => BitVec.ofNat 16 t.toNat | none => 0xFFFF) ]
    slotRecordWrites k r =
      (List.range 10).map (fun j => (16 + 16 * k + j, words.getD j 0)) ++ [(16 + 16 * k + 15, crcOf words)]

/-- The ends of a seed, a format, a verify and recovery (R114, R115, R121, R128), by their rows also while the last access is
still in progress, which then completes first (log 10); and recovery's accesses: the volume record judged, UNFORMATTED if it is not
valid, the intent resolved, each slot record taken or written EMPTY, each VALID slot verified (R105, R126 to R128; the capacity code 3
taken as 0: log 23; the slot modulo 8 and a data length of less than a word: log 24). -/
def Obligations.SeedFormatVerifyRecoveryEnd : Prop :=
  (∀ (s : State) (k : Nat),
    let u := s.toEf24
    let x := u.save.slot k
    let idle (slots : Vector Slot 8) : Ef24 := { u with save := { u.save with slots := slots, sequencer := .idle } }
    u.coreRunning = true →
      (∀ index held, u.save.sequencer = .copying k index held → u.save.slotWords k ≤ index →
        exec .seedDone s = s.answering
          ((idle (u.save.slots.setIfInBounds k { x with tainted := false })).postDone .slotSeed .ok k)) ∧
      (∀ sizes, u.save.sequencer = .formatting sizes [] →
        ∃ slots : Vector Slot 8,
          exec .formatDone s = s.answering
            ({ u with save := { u.save with
                slots := slots, slotCount := sizes.length, sizes := sizes, volume := .ready
                sequencer := .idle } }.postDone .saveFormat .ok 0) ∧
          ∀ j, j < 8 → Table.get slots j Slot.reset = { u.save.slot j with record := SlotRecord.empty 0, phase := .none }) ∧
      (∀ index crc, u.save.sequencer = .verifying k index crc → x.record.dataLength.toNat / 2 ≤ index →
        exec .verifyDone s = s.answering
          ((idle (u.save.slots.setIfInBounds k { x with bad := decide (crc ≠ x.record.crc) })).postDone .slotVerify
            (if crc = x.record.crc then .ok else .crcBad) k)) ∧
      (u.save.sequencer = .recovering .finished →
        exec .recoveryDone s = s.answering
          { u with save := { u.save with volume := .ready, sequencer := .idle } })) ∧
  (∀ s : State,
    let u := s.settled
    let word (a : Nat) : Word := u.sram.read a
    let at_ (v : Ef24) (stage : RecoveryStage) : Ef24 :=
      { v with save := { v.save with sequencer := .recovering stage, port := none } }
    let freed (v : Ef24) : Ef24 := { v with save := { v.save with port := none } }
    let wrote (a : Nat) (w : Word) : Ef24 := { u with sram := u.sram.write a w }
    let resolves (k : Nat) (new prior : SlotRecord) (forward : Bool) : Ef24 :=
      at_ u (.resolving k forward (slotRecordWrites k (if forward = true then new else prior) ++ [(144, 0)]))
    let after (v : Ef24) (k : Nat) : Ef24 :=
      if k + 1 < v.save.slotCount then at_ v (.slotRecord (k + 1) []) else freed (v.verifyFrom 8 0)
    let recorded (v : Ef24) (k : Nat) (r : SlotRecord) : Ef24 :=
      { v with save := { v.save with slots := v.save.slots.setIfInBounds k { v.save.slot k with record := r } } }
    u.save.port = some .sequencer →
      (∀ got, u.save.sequencer = .recovering (.volumeRecord got) →
        (got.length < 11 → exec .sequencerAccess s = s.answering (at_ u (.volumeRecord (got ++ [word got.length])))) ∧
        (got.length = 11 →
          let ws := got ++ [word 15]
          let count := (ws.getD 1 0).toNat
          (volumeValid ws u.sramCode = true → exec .sequencerAccess s = s.answering
            { u with save := { u.save with
                slotCount := count, sizes := (List.range count).map (fun k => (ws.getD (3 + k) 0).toNat)
                sequencer := .recovering (.intentRecord []), port := none } }) ∧
          (volumeValid ws u.sramCode = false → exec .sequencerAccess s = s.answering
            { u with save := { u.save with volume := .unformatted, sequencer := .idle, port := none } }))) ∧
      (∀ got, u.save.sequencer = .recovering (.intentRecord got) →
        (got.length < 22 →
          exec .sequencerAccess s = s.answering (at_ u (.intentRecord (got ++ [word (144 + got.length)])))) ∧
        (got.length = 22 →
          let ws := got ++ [word 175]
          let k := (ws.getD 1 0).toNat % 8
          let new := SlotRecord.ofWords (ws.drop 2)
          let prior := SlotRecord.ofWords (ws.drop 12)
          (intentValid ws = false → exec .sequencerAccess s = s.answering (at_ u (.slotRecord 0 []))) ∧
          (intentValid ws = true → new.valid = false →
            exec .sequencerAccess s = s.answering (resolves k new prior true)) ∧
          (intentValid ws = true → new.valid = true → new.dataLength.toNat < 2 →
            exec .sequencerAccess s = s.answering (resolves k new prior (decide (new.crc = 0xFFFF)))) ∧
          (intentValid ws = true → new.valid = true → 2 ≤ new.dataLength.toNat →
            exec .sequencerAccess s = s.answering (at_ u (.intentScan k new prior 0 0xFFFF))))) ∧
      (∀ k new prior index crc, u.save.sequencer = .recovering (.intentScan k new prior index crc) →
        let crc' := crcWord crc (word (imageBase u.save.sizes k new.live + index))
        (index + 1 < new.dataLength.toNat / 2 →
          exec .sequencerAccess s = s.answering (at_ u (.intentScan k new prior (index + 1) crc'))) ∧
        (new.dataLength.toNat / 2 ≤ index + 1 →
          exec .sequencerAccess s = s.answering (resolves k new prior (decide (crc' = new.crc))))) ∧
      (∀ k forward a w rest, u.save.sequencer = .recovering (.resolving k forward ((a, w) :: rest)) →
        (rest ≠ [] → exec .sequencerAccess s = s.answering (at_ (wrote a w) (.resolving k forward rest))) ∧
        (rest = [] → exec .sequencerAccess s = s.answering
          (at_ ((wrote a w).post .recovery k (if forward = true then 0 else 1)) (.slotRecord 0 [])))) ∧
      (∀ k got, u.save.sequencer = .recovering (.slotRecord k got) →
        (got.length < 10 → exec .sequencerAccess s = s.answering
          (at_ u (.slotRecord k (got ++ [word (16 + 16 * k + got.length)])))) ∧
        (got.length = 10 →
          (crcOf got = word (16 + 16 * k + 15) →
            exec .sequencerAccess s = s.answering
              (after (recorded u k (SlotRecord.ofWords (got ++ [word (16 + 16 * k + 15)]))) k)) ∧
          (crcOf got ≠ word (16 + 16 * k + 15) → exec .sequencerAccess s = s.answering
            (at_ u (.rewriting k (slotRecordWrites k (SlotRecord.empty 0))))))) ∧
      (∀ k a w rest, u.save.sequencer = .recovering (.rewriting k ((a, w) :: rest)) →
        (rest ≠ [] → exec .sequencerAccess s = s.answering (at_ (wrote a w) (.rewriting k rest))) ∧
        (rest = [] → exec .sequencerAccess s = s.answering
          (after ((recorded (wrote a w) k (SlotRecord.empty 0)).post .recovery k 2) k))) ∧
      (∀ k index crc, u.save.sequencer = .recovering (.verifying k index crc) →
        let crc' := crcWord crc (word (u.save.liveBase k + index))
        let bad : Ef24 := { u with save := { u.save with
          slots := u.save.slots.setIfInBounds k { u.save.slot k with bad := true } } }
        (index + 1 < (u.save.slot k).record.dataLength.toNat / 2 →
          exec .sequencerAccess s = s.answering (at_ u (.verifying k (index + 1) crc'))) ∧
        ((u.save.slot k).record.dataLength.toNat / 2 ≤ index + 1 →
          (crc' = (u.save.slot k).record.crc → exec .sequencerAccess s = s.answering (freed (u.verifyFrom 8 (k + 1)))) ∧
          (crc' ≠ (u.save.slot k).record.crc → exec .sequencerAccess s = s.answering
            (freed ((bad.post .recovery k 3).verifyFrom 8 (k + 1))))))) ∧
  (∀ (v : Ef24) (j : Nat), v.save.slotCount ≤ 8 →
    let at_ (stage : RecoveryStage) : Ef24 := { v with save := { v.save with sequencer := .recovering stage } }
    let waits (m : Nat) := j ≤ m ∧ m < v.save.slotCount ∧ (v.save.slot m).record.valid = true
    ((∀ m, ¬ waits m) → v.verifyFrom 8 j = at_ .finished) ∧
    (∀ m, waits m → (∀ l, waits l → m ≤ l) → 2 ≤ (v.save.slot m).record.dataLength.toNat →
      v.verifyFrom 8 j = at_ (.verifying m 0 0xFFFF)) ∧
    (∀ m, waits m → (∀ l, waits l → m ≤ l) → (v.save.slot m).record.dataLength.toNat < 2 →
      let bad : Ef24 := { v with save := { v.save with
        slots := v.save.slots.setIfInBounds m { v.save.slot m with bad := true } } }
      ((v.save.slot m).record.crc = 0xFFFF → v.verifyFrom 8 j = v.verifyFrom 8 (m + 1)) ∧
      ((v.save.slot m).record.crc ≠ 0xFFFF → v.verifyFrom 8 j = (bad.post .recovery m 3).verifyFrom 8 (m + 1)))) ∧
  (∀ (s : State) (k : Nat),
    let u := s.settled
    let x := u.save.slot k
    let word (a : Nat) : Word := u.sram.read a
    let wrote (a : Nat) (w : Word) : Ef24 := { u with sram := u.sram.write a w }
    let idle (v : Ef24) (slots : Vector Slot 8) : Ef24 :=
      { v with save := { v.save with slots := slots, sequencer := .idle, port := none } }
    let seeded (w : Word) : Ef24 := (idle (wrote (u.save.stagingBase k + (u.save.slotWords k - 1)) w)
      (u.save.slots.setIfInBounds k { x with tainted := false })).postDone .slotSeed .ok k
    let recorded (v : Ef24) (r : SlotRecord) : Ef24 :=
      { v with save := { v.save with slots := v.save.slots.setIfInBounds k { v.save.slot k with record := r } } }
    let ready (v : Ef24) : Ef24 := { v with save := { v.save with volume := .ready, sequencer := .idle, port := none } }
    let ends (v : Ef24) := v.save.sequencer = .recovering .finished
    u.save.port = some .sequencer →
      (∀ index w, u.save.sequencer = .copying k index (some w) → index + 1 = u.save.slotWords k → x.record.valid = true →
        exec .seedDone s = s.answering (seeded w)) ∧
      (∀ index held, u.save.sequencer = .copying k index held → index + 1 = u.save.slotWords k → x.record.valid = false →
        exec .seedDone s = s.answering (seeded 0)) ∧
      (∀ sizes a w, u.save.sequencer = .formatting sizes [(a, w)] →
        ∃ slots : Vector Slot 8,
          (let v := idle (wrote a w) slots
           exec .formatDone s = s.answering ({ v with save := { v.save with
             slotCount := sizes.length, sizes := sizes, volume := .ready } }.postDone .saveFormat .ok 0)) ∧
          ∀ j, j < 8 → Table.get slots j Slot.reset = { u.save.slot j with record := SlotRecord.empty 0, phase := .none }) ∧
      (∀ index crc, u.save.sequencer = .verifying k index crc → index + 1 = x.record.dataLength.toNat / 2 →
        let crc' := crcWord crc (word (u.save.liveBase k + index))
        exec .verifyDone s = s.answering
          ((idle u (u.save.slots.setIfInBounds k { x with bad := decide (crc' ≠ x.record.crc) })).postDone .slotVerify
            (if crc' = x.record.crc then .ok else .crcBad) k)) ∧
      (∀ got, u.save.sequencer = .recovering (.slotRecord k got) → got.length = 10 →
        crcOf got = word (16 + 16 * k + 15) → u.save.slotCount ≤ k + 1 →
        let v := (recorded u (SlotRecord.ofWords (got ++ [word (16 + 16 * k + 15)]))).verifyFrom 8 0
        ends v → exec .recoveryDone s = s.answering (ready v)) ∧
      (∀ a w, u.save.sequencer = .recovering (.rewriting k [(a, w)]) → u.save.slotCount ≤ k + 1 →
        let v := ((recorded (wrote a w) (SlotRecord.empty 0)).post .recovery k 2).verifyFrom 8 0
        ends v → exec .recoveryDone s = s.answering (ready v)) ∧
      (∀ index crc, u.save.sequencer = .recovering (.verifying k index crc) →
        x.record.dataLength.toNat / 2 ≤ index + 1 →
        let crc' := crcWord crc (word (u.save.liveBase k + index))
        let bad : Ef24 := { u with save := { u.save with slots := u.save.slots.setIfInBounds k { x with bad := true } } }
        let v := if crc' = x.record.crc then u.verifyFrom 8 (k + 1) else (bad.post .recovery k 3).verifyFrom 8 (k + 1)
        ends v → exec .recoveryDone s = s.answering (ready v))) ∧
  (∀ (ws : List Word) (code : BitVec 2),
    let count := (ws.getD 1 0).toNat
    let sizes := (List.range count).map (fun k => (ws.getD (3 + k) 0).toNat)
    (volumeValid ws code = true ↔
      ws.getD 0 0 = 0x5EF2 ∧ crcOf (ws.take 11) = ws.getD 11 0 ∧ 1 ≤ count ∧ count ≤ 8 ∧
        (∀ z ∈ sizes, 1 ≤ z ∧ z ≤ 63) ∧ 1 + 2 * sizes.sum ≤ Config.sramKiB code ∧
        ws.getD 2 0 = (if code = 3 then 0 else code.zeroExtend 16)) ∧
    (intentValid ws = true ↔ ws.getD 0 0 = 0x5EF2 ∧ crcOf (ws.take 22) = ws.getD 22 0)) ∧
  ∀ (ws : List Word),
    let w (i : Nat) := ws.getD i 0
    let two (i : Nat) : BitVec 32 := BitVec.ofNat 32 ((w i).toNat * 65536 + (w (i + 1)).toNat)
    SlotRecord.ofWords ws =
      { valid := (w 0).getLsbD 0, live := if (w 0).getLsbD 1 = true then .b else .a, generation := w 1,
        dataLength := w 2, crc := w 3, gameDay := two 4, playSeconds := two 6,
        instant := if w 8 = 0xFFFF ∧ w 9 = 0xFFFF then none else some (two 8) }

/-! ## Crystal, supply, reset, coin cell (Chapters 9 and 12) -/

/-- A crystal second: the calendar holds at its last reading; BEHIND it only advances and may catch up; in TRUE the high-water
instant rises with it, and with Calendar Valid a rollover and then a minute boundary are handed on (R139, R141, R142, R154). Which
schedule entries each fires, in entry order (a rollover and the counter as one signal: log 42), and what a firing does in each chip
state (R160 to R164). The next reading with its carries, the last reading, the calendar instant in seconds since 2000-01-01 00:00:00, and
the weekday, Saturday (6) on that day and one more, modulo 7, each day (R138, R139). -/
def Obligations.SecondAdvancesCalendar : Prop :=
  (∀ s : State,
    let u := s.settled
    let c := u.calendar
    let t := c.now.next
    let counted : Ef24 := { u with calendar := { c with now := t, high := t.instant } }
    let raised : Ef24 := { counted with calendar := { counted.calendar with gameDay := min 16777215 (c.gameDay + 1) } }
    let rolled : Ef24 :=
      (if u.coreRunning = true then raised.post .dayRollover 0 1
        else { raised with calendar := { raised.calendar with unreported := min 65535 (c.unreported + 1) } }).tellRollover
    let examined : Ef24 := if t.hour = c.dayStart ∧ t.minute = 0 ∧ t.second = 0 then rolled else counted
    u.power.retained = true →
      (c.now = DateTime.last → exec .calendarSecond s = s.answering u) ∧
      (c.now ≠ DateTime.last → c.behind = true → t.instant ≠ c.high →
        exec .calendarSecond s = s.answering { u with calendar := { c with now := t } }) ∧
      (c.now ≠ DateTime.last → c.behind = true → t.instant = c.high →
        let caught : Ef24 := { u with calendar := { c with now := t, behind := false } }
        exec .calendarSecond s = s.answering
          (if u.coreRunning = true then caught.post .clockCaughtUp 0 0 else caught)) ∧
      (c.now ≠ DateTime.last → c.behind = false → c.valid = false → exec .calendarSecond s = s.answering counted) ∧
      (c.now ≠ DateTime.last → c.behind = false → c.valid = true →
        exec .calendarSecond s = s.answering (if t.second = 0 then examined.tellMinute else examined))) ∧
  (∀ t : DateTime, t.exists_ = true → t ≠ DateTime.last → t.next.exists_ = true ∧ t.next.instant = t.instant + 1) ∧
  (∀ u : Ef24,
    let fires (p : ScheduleEntry → Bool) : List Nat := (List.range 16).filter (fun i => (u.entry i).enabled && p (u.entry i))
    let t := u.calendar.now
    let onRollover (e : ScheduleEntry) : Bool := decide (e.kindNamed = some .onRollover ∨
      (e.kindNamed = some .onGameDay ∧ e.fired = false ∧ e.target ≤ u.calendar.gameDay))
    let onMinute (e : ScheduleEntry) : Bool := decide (e.kindNamed = some .atTime ∧ e.hour = t.hour ∧
      e.minute = t.minute ∧ t.weekday < 7 ∧ e.word3.getLsbD t.weekday = true)
    u.tellRollover = (fires onRollover).foldl Ef24.fire u ∧ u.tellMinute = (fires onMinute).foldl Ef24.fire u) ∧
  (∀ (u : Ef24) (i : Nat),
    let e := u.entry i
    let fired : ScheduleEntry := { e with fired := if e.kindNamed = some .onGameDay then true else e.fired }
    let marked (x : ScheduleEntry) : Ef24 := { u with schedule := u.schedule.setIfInBounds i x }
    i < 16 →
      (u.chip = some .run → u.fire i = (marked fired).dispatch .schedule e.action.toNat) ∧
      (u.chip = some .enteringSleep ∨ u.chip = some .asleep →
        u.fire i = if e.wake = true then (marked { fired with pending := true }).post .schedule i 0
          else marked { fired with pending := true }) ∧
      (u.chip = some .halted ∨ u.chip = none → u.fire i = marked { fired with pending := true })) ∧
  (∀ t : DateTime, t.next =
    if t.second < 59 then { t with second := t.second + 1 }
    else if t.minute < 59 then { t with second := 0, minute := t.minute + 1 }
    else if t.hour < 23 then { t with second := 0, minute := 0, hour := t.hour + 1 }
    else if t.date < monthDays t.year t.month then { t with second := 0, minute := 0, hour := 0, date := t.date + 1 }
    else if t.month < 12 then { t with second := 0, minute := 0, hour := 0, date := 1, month := t.month + 1 }
    else { year := t.year + 1, month := 1, date := 1, hour := 0, minute := 0, second := 0 }) ∧
  DateTime.last = { year := 2099, month := 12, date := 31, hour := 23, minute := 59, second := 59 } ∧
  ∀ t : DateTime, t.exists_ = true →
    let years := ((List.range (t.year - 2000)).map (fun y => if y % 4 = 0 then 366 else 365)).sum
    let months := ((List.range (t.month - 1)).map (fun m => monthDays t.year (m + 1))).sum
    let days := years + months + (t.date - 1)
    t.instant = days * 86400 + t.hour * 3600 + t.minute * 60 + t.second ∧ t.weekday = (days + 6) % 7

/-- VCC takes a level; a hold that runs out moves the supply state: SUPPLY posted between GOOD and LOW, HALTED on FAILING with
the gate closed, the core's reset values on losing power, a core reset on reaching GOOD, with a backup reset before it where
retention was lost (R123, R174 to R178, R185). The operand names the transition, and a change whose hold does not run changes
nothing: the model's choices (log 38, log 8); a core without supply keeps the running mark until the reset (R152; log 27). A hold timer
runs exactly where the state and VCC meet its transition's condition, the GOOD, LOW and FAILING thresholds 0.1 V lower with Heavy
Load (R173 to R175; levels in millivolts: log 29). -/
def Obligations.SupplyChangesByHold : Prop :=
  (∀ (s : State) (millivolts : Nat),
    exec (.vccCrossing millivolts) s = s.answering
      { s.settled with power := { s.settled.power with vcc := millivolts } }) ∧
  (∀ s : State,
    let u := s.settled
    let moved (x : Supply) : Ef24 := { u with power := { u.power with supply := x } }
    let ran (c : SupplyChange) := Hold.supply c ∈ u.power.holds
    let cleared (v : Ef24) : Ef24 := { v with
      windows := State.reset.windows, romPort := .idle, command := State.reset.command, loader := none
      actions := State.reset.actions, sound := State.reset.sound, rumble := State.reset.rumble
      save := Save.reset, events := State.reset.events, chip := none }
    (∀ c, ¬ ran c → exec (.supplyStateChange c) s = s.answering u) ∧
    (ran .absentToRising → exec (.supplyStateChange .absentToRising) s = s.answering (moved .rising)) ∧
    (ran .risingToAbsent → exec (.supplyStateChange .risingToAbsent) s = s.answering (moved .absent)) ∧
    (ran .goodToLow → exec (.supplyStateChange .goodToLow) s = s.answering
      (if u.coreRunning = true then (moved .low).post .supply 3 0 else moved .low)) ∧
    (ran .lowToGood → exec (.supplyStateChange .lowToGood) s = s.answering
      (if u.coreRunning = true then (moved .good).post .supply 2 0 else moved .good)) ∧
    (ran .toFailing → u.chip ≠ none → exec (.supplyStateChange .toFailing) s = s.answering
      { moved .failing with
        save := { u.save with buffer := [], flags := [], port := none, guard := false }
        chip := some .halted, romPort := .idle, sound := { u.sound with aout := 0 }
        rumble := { u.rumble with motor := { u.rumble.motor with strength := 0 } } }) ∧
    (ran .toFailing → u.chip = none → exec (.supplyStateChange .toFailing) s = s.answering
      { moved .failing with save := { u.save with buffer := [], flags := [], port := none, guard := false } }) ∧
    (ran .failingToAbsent → exec (.supplyStateChange .failingToAbsent) s = s.answering (cleared (moved .absent))) ∧
    (∀ c, c = .risingToGood ∨ c = .failingToGood → ran c →
      let kept : Ef24 := if u.power.retained = true then moved .good
        else { moved .good with
          calendar := State.reset.calendar, schedule := State.reset.schedule
          power := { u.power with supply := .good, coinLow := false, retained := true } }
      let held : Ef24 := { cleared kept with calendar := { kept.calendar with timerRunning := false } }
      exec (.supplyStateChange c) s = s.answering (if u.crstLow = true then held else held.endReset))) ∧
  ∀ u : Ef24,
    let p := u.power
    let good := if u.conclude.power.heavyLoad = true then 2900 else 3000
    let failing := if u.conclude.power.heavyLoad = true then 2700 else 2800
    let runs (c : SupplyChange) := Hold.supply c ∈ u.conclude.power.holds
    (runs .absentToRising ↔ p.supply = .absent ∧ 2000 < p.vcc) ∧
    (runs .risingToAbsent ↔ p.supply = .rising ∧ p.vcc < 1800) ∧
    (runs .risingToGood ↔ p.supply = .rising ∧ 3000 ≤ p.vcc) ∧
    (runs .goodToLow ↔ p.supply = .good ∧ p.vcc < good) ∧
    (runs .lowToGood ↔ p.supply = .low ∧ good ≤ p.vcc) ∧
    (runs .toFailing ↔ (p.supply = .good ∨ p.supply = .low) ∧ p.vcc < failing) ∧
    (runs .failingToAbsent ↔ p.supply = .failing ∧ p.vcc < 1800) ∧
    (runs .failingToGood ↔ p.supply = .failing ∧ 3000 ≤ p.vcc)

/-- /CRST low holds the core in reset with its reset values, the posted writes of a running core still to drain; /CRST high ends
the reset in GOOD or LOW in RUN with recovery begun, the backup domain kept (R125, R178, R179; the drain entry by entry: log 26). The
core reset values of every block (R2, R19, R32, R36, R49, R64, R67, R85, R86, R94, R97, R109, R112, R125, R130, R172; the copy of the volume
record: log 5). At the end of a reset the start-up DAY_ROLLOVER with the unreported count, if above 0, and SCHEDULE MISSED for each
Pending entry in ascending order are posted and cleared (R144, R166), the one somewhere among the others, an order left open and a free
value of the model; RECOVERY events come after them (log 13). -/
def Obligations.CoreResetHoldsAndEnds : Prop :=
  (∀ s : State,
    let u := s.settled
    (u.coreRunning = true →
      exec .crstAssert s = s.answering { u.coreResetValues with
        crstLow := true, chip := none, save := { Save.reset with buffer := u.save.buffer } }) ∧
    (u.chip = some .halted →
      exec .crstAssert s = s.answering { u.coreResetValues with crstLow := true, chip := none }) ∧
    (u.chip = none → exec .crstAssert s = s.answering { u with crstLow := true }) ∧
    (u.chip = none → u.power.supply.powers = false → exec .crstRelease s = s.answering { u with crstLow := false }) ∧
    (u.chip = none → u.power.supply.powers = true →
      let drained : Ef24 := { u with
        crstLow := false
        sram := u.sram.writeAll (u.save.buffer.map (fun p => (p.address, p.data)))
        save := { u.save with buffer := [], port := none } }
      exec .crstRelease s = s.answering drained.endReset)) ∧
  (∀ u : Ef24, u.coreResetValues = { u with
    windows := State.reset.windows, romPort := .idle, loader := none
    command := { state := .idle, frame := [], expected := 0, response := [], taken := 0, protocolError := false }
    actions := State.reset.actions, sound := State.reset.sound, rumble := State.reset.rumble, save := Save.reset
    events := { queue := [], overflow := false, mask := 0 }
    calendar := { u.calendar with timerRunning := false } }) ∧
  (let x := Save.reset
   x.volume = .recovering ∧ x.slotCount = 0 ∧ x.sizes = [] ∧ x.buffer = [] ∧ x.flags = [] ∧ x.sequencer = .idle ∧
     x.port = none ∧ x.guard = false ∧
     ∀ k, k < 8 → (x.slot k).tainted = false ∧ (x.slot k).bad = false ∧ (x.slot k).phase = .none) ∧
  (∀ x : Supply, x.powers = true ↔ x = .good ∨ x = .low) ∧
  ∀ u : Ef24,
    let missed : List Posting :=
      ((List.range 16).filter (fun i => (u.entry i).pending)).map (fun i => (.schedule, i, 1))
    let rollover : List Posting := if 0 < u.calendar.unreported then [(.dayRollover, 2, u.calendar.unreported)] else []
    ∃ (before after : List Posting) (schedule : Vector ScheduleEntry 16),
      missed = before ++ after ∧
      u.endReset = { u with
        chip := some .run
        save := { u.save with sequencer := .recovering (.volumeRecord []) }
        calendar := { u.calendar with unreported := 0 }
        schedule := schedule
        events := (u.postAll (before ++ rollover ++ after)).events
        free := u.free + 1 } ∧
      ∀ i, i < 16 → Table.get schedule i ScheduleEntry.unused = { u.entry i with pending := false }

/-- VBAT takes a level, and a cell above 1.9 V resets a domain that has lost retention (log 28); the comparator's holds set and
clear the coin-cell low flag; the 1.9 V hold loses retention, and it may be SRAM contents within the strapped capacity (R140,
R158, R184, R185; which contents: log 12), and so does being left with no source at all, before the next command (R185; log 28).
The comparator's holds run while the domain is supplied and holds its state, below 2.5 V with the flag clear and at or above 2.6 V
with it set, no cell counting as below; the 1.9 V hold runs on a fitted cell while VCC does not feed the domain (R173, R184, R185;
no cell: log 28; levels in millivolts: log 29). -/
def Obligations.CoinCellAndRetention : Prop :=
  (∀ s : State,
    let u := s.settled
    (∀ level : Option Nat,
      let fitted : Ef24 := { u with power := { u.power with vbat := level } }
      exec (.vbatChange level) s = s.answering
        (if u.power.retained = false ∧ ∃ m, level = some m ∧ 1900 < m then
          { fitted with calendar := State.reset.calendar, schedule := State.reset.schedule
                        power := { fitted.power with coinLow := false, retained := true } }
        else fitted)) ∧
    (Hold.cellLow ∈ u.power.holds →
      exec .coinCellLowChange s = s.answering { u with power := { u.power with coinLow := true } }) ∧
    (Hold.cellLow ∉ u.power.holds → Hold.cellGood ∈ u.power.holds →
      exec .coinCellLowChange s = s.answering { u with power := { u.power with coinLow := false } }) ∧
    (Hold.cellLost ∈ u.power.holds → ∃ writes : List (Nat × Word),
      exec .retentionLoss s = s.answering { u with
        sram := u.sram.writeAll writes, power := { u.power with retained := false }, free := u.free + 1 } ∧
      ∀ x ∈ writes, x.1 < 512 * Config.sramKiB u.sramCode)) ∧
  (∀ u : Ef24,
    let lost := u.power.retained = true ∧ u.power.supply ≠ .good ∧ u.power.supply ≠ .low ∧ u.power.vbat = none
    (lost → u.settle.power.retained = false ∧ ∃ writes : List (Nat × Word),
      u.settle.sram = u.sram.writeAll writes ∧ ∀ x ∈ writes, x.1 < 512 * Config.sramKiB u.sramCode) ∧
    (¬ lost → u.settle.power.retained = u.power.retained ∧ u.settle.sram = u.sram)) ∧
  ∀ u : Ef24,
    let p := u.power
    let fed := p.supply = .good ∨ p.supply = .low
    let below (level : Nat) := ∀ m, p.vbat = some m → m < level
    (Hold.cellLow ∈ u.conclude.power.holds ↔
      (fed ∨ p.vbat ≠ none) ∧ p.retained = true ∧ p.coinLow = false ∧ below 2500) ∧
    (Hold.cellGood ∈ u.conclude.power.holds ↔
      (fed ∨ p.vbat ≠ none) ∧ p.retained = true ∧ p.coinLow = true ∧ ¬ below 2600) ∧
    (Hold.cellLost ∈ u.conclude.power.holds ↔ p.retained = true ∧ ¬ fed ∧ ∃ m, p.vbat = some m ∧ m < 1900)
end

