-- ==== Sys2Proof/Laws/State.lean ====
section
/-! SUPPORT. The fields of the chip after each update, one lemma for each field that the update leaves, and for each one that
it writes with the value written; all true by `rfl`. -/

namespace Sys2Proof.Machine

/-! `post` -/

@[simp] theorem post_romCode (u : Ef24) (kind : EventKind) (index detail : Nat) : (u.post kind index detail).romCode = u.romCode := rfl
@[simp] theorem post_sramCode (u : Ef24) (kind : EventKind) (index detail : Nat) : (u.post kind index detail).sramCode = u.sramCode := rfl
@[simp] theorem post_rom (u : Ef24) (kind : EventKind) (index detail : Nat) : (u.post kind index detail).rom = u.rom := rfl
@[simp] theorem post_sram (u : Ef24) (kind : EventKind) (index detail : Nat) : (u.post kind index detail).sram = u.sram := rfl
@[simp] theorem post_readData (u : Ef24) (kind : EventKind) (index detail : Nat) : (u.post kind index detail).readData = u.readData := rfl
@[simp] theorem post_crstLow (u : Ef24) (kind : EventKind) (index detail : Nat) : (u.post kind index detail).crstLow = u.crstLow := rfl
@[simp] theorem post_windows (u : Ef24) (kind : EventKind) (index detail : Nat) : (u.post kind index detail).windows = u.windows := rfl
@[simp] theorem post_romPort (u : Ef24) (kind : EventKind) (index detail : Nat) : (u.post kind index detail).romPort = u.romPort := rfl
@[simp] theorem post_command (u : Ef24) (kind : EventKind) (index detail : Nat) : (u.post kind index detail).command = u.command := rfl
@[simp] theorem post_loader (u : Ef24) (kind : EventKind) (index detail : Nat) : (u.post kind index detail).loader = u.loader := rfl
@[simp] theorem post_actions (u : Ef24) (kind : EventKind) (index detail : Nat) : (u.post kind index detail).actions = u.actions := rfl
@[simp] theorem post_sound (u : Ef24) (kind : EventKind) (index detail : Nat) : (u.post kind index detail).sound = u.sound := rfl
@[simp] theorem post_rumble (u : Ef24) (kind : EventKind) (index detail : Nat) : (u.post kind index detail).rumble = u.rumble := rfl
@[simp] theorem post_save (u : Ef24) (kind : EventKind) (index detail : Nat) : (u.post kind index detail).save = u.save := rfl
@[simp] theorem post_calendar (u : Ef24) (kind : EventKind) (index detail : Nat) : (u.post kind index detail).calendar = u.calendar := rfl
@[simp] theorem post_schedule (u : Ef24) (kind : EventKind) (index detail : Nat) : (u.post kind index detail).schedule = u.schedule := rfl
@[simp] theorem post_power (u : Ef24) (kind : EventKind) (index detail : Nat) : (u.post kind index detail).power = u.power := rfl
@[simp] theorem post_chip (u : Ef24) (kind : EventKind) (index detail : Nat) : (u.post kind index detail).chip = u.chip := rfl
@[simp] theorem post_free (u : Ef24) (kind : EventKind) (index detail : Nat) : (u.post kind index detail).free = u.free := rfl

/-! `postDone` -/

@[simp] theorem postDone_romCode (u : Ef24) (c : Command) (status : Status) (item : Nat) : (u.postDone c status item).romCode = u.romCode := rfl
@[simp] theorem postDone_sramCode (u : Ef24) (c : Command) (status : Status) (item : Nat) : (u.postDone c status item).sramCode = u.sramCode := rfl
@[simp] theorem postDone_rom (u : Ef24) (c : Command) (status : Status) (item : Nat) : (u.postDone c status item).rom = u.rom := rfl
@[simp] theorem postDone_sram (u : Ef24) (c : Command) (status : Status) (item : Nat) : (u.postDone c status item).sram = u.sram := rfl
@[simp] theorem postDone_readData (u : Ef24) (c : Command) (status : Status) (item : Nat) : (u.postDone c status item).readData = u.readData := rfl
@[simp] theorem postDone_crstLow (u : Ef24) (c : Command) (status : Status) (item : Nat) : (u.postDone c status item).crstLow = u.crstLow := rfl
@[simp] theorem postDone_windows (u : Ef24) (c : Command) (status : Status) (item : Nat) : (u.postDone c status item).windows = u.windows := rfl
@[simp] theorem postDone_romPort (u : Ef24) (c : Command) (status : Status) (item : Nat) : (u.postDone c status item).romPort = u.romPort := rfl
@[simp] theorem postDone_command (u : Ef24) (c : Command) (status : Status) (item : Nat) : (u.postDone c status item).command = u.command := rfl
@[simp] theorem postDone_loader (u : Ef24) (c : Command) (status : Status) (item : Nat) : (u.postDone c status item).loader = u.loader := rfl
@[simp] theorem postDone_actions (u : Ef24) (c : Command) (status : Status) (item : Nat) : (u.postDone c status item).actions = u.actions := rfl
@[simp] theorem postDone_sound (u : Ef24) (c : Command) (status : Status) (item : Nat) : (u.postDone c status item).sound = u.sound := rfl
@[simp] theorem postDone_rumble (u : Ef24) (c : Command) (status : Status) (item : Nat) : (u.postDone c status item).rumble = u.rumble := rfl
@[simp] theorem postDone_save (u : Ef24) (c : Command) (status : Status) (item : Nat) : (u.postDone c status item).save = u.save := rfl
@[simp] theorem postDone_calendar (u : Ef24) (c : Command) (status : Status) (item : Nat) : (u.postDone c status item).calendar = u.calendar := rfl
@[simp] theorem postDone_schedule (u : Ef24) (c : Command) (status : Status) (item : Nat) : (u.postDone c status item).schedule = u.schedule := rfl
@[simp] theorem postDone_power (u : Ef24) (c : Command) (status : Status) (item : Nat) : (u.postDone c status item).power = u.power := rfl
@[simp] theorem postDone_chip (u : Ef24) (c : Command) (status : Status) (item : Nat) : (u.postDone c status item).chip = u.chip := rfl
@[simp] theorem postDone_free (u : Ef24) (c : Command) (status : Status) (item : Nat) : (u.postDone c status item).free = u.free := rfl

/-! `actionFault` -/

@[simp] theorem actionFault_romCode (u : Ef24) (cause : ActionCause) (index : Nat) (source : DispatchSource) (first : Nat) : (u.actionFault cause index source first).romCode = u.romCode := rfl
@[simp] theorem actionFault_sramCode (u : Ef24) (cause : ActionCause) (index : Nat) (source : DispatchSource) (first : Nat) : (u.actionFault cause index source first).sramCode = u.sramCode := rfl
@[simp] theorem actionFault_rom (u : Ef24) (cause : ActionCause) (index : Nat) (source : DispatchSource) (first : Nat) : (u.actionFault cause index source first).rom = u.rom := rfl
@[simp] theorem actionFault_sram (u : Ef24) (cause : ActionCause) (index : Nat) (source : DispatchSource) (first : Nat) : (u.actionFault cause index source first).sram = u.sram := rfl
@[simp] theorem actionFault_readData (u : Ef24) (cause : ActionCause) (index : Nat) (source : DispatchSource) (first : Nat) : (u.actionFault cause index source first).readData = u.readData := rfl
@[simp] theorem actionFault_crstLow (u : Ef24) (cause : ActionCause) (index : Nat) (source : DispatchSource) (first : Nat) : (u.actionFault cause index source first).crstLow = u.crstLow := rfl
@[simp] theorem actionFault_windows (u : Ef24) (cause : ActionCause) (index : Nat) (source : DispatchSource) (first : Nat) : (u.actionFault cause index source first).windows = u.windows := rfl
@[simp] theorem actionFault_romPort (u : Ef24) (cause : ActionCause) (index : Nat) (source : DispatchSource) (first : Nat) : (u.actionFault cause index source first).romPort = u.romPort := rfl
@[simp] theorem actionFault_command (u : Ef24) (cause : ActionCause) (index : Nat) (source : DispatchSource) (first : Nat) : (u.actionFault cause index source first).command = u.command := rfl
@[simp] theorem actionFault_loader (u : Ef24) (cause : ActionCause) (index : Nat) (source : DispatchSource) (first : Nat) : (u.actionFault cause index source first).loader = u.loader := rfl
@[simp] theorem actionFault_actions (u : Ef24) (cause : ActionCause) (index : Nat) (source : DispatchSource) (first : Nat) : (u.actionFault cause index source first).actions = u.actions := rfl
@[simp] theorem actionFault_sound (u : Ef24) (cause : ActionCause) (index : Nat) (source : DispatchSource) (first : Nat) : (u.actionFault cause index source first).sound = u.sound := rfl
@[simp] theorem actionFault_rumble (u : Ef24) (cause : ActionCause) (index : Nat) (source : DispatchSource) (first : Nat) : (u.actionFault cause index source first).rumble = u.rumble := rfl
@[simp] theorem actionFault_save (u : Ef24) (cause : ActionCause) (index : Nat) (source : DispatchSource) (first : Nat) : (u.actionFault cause index source first).save = u.save := rfl
@[simp] theorem actionFault_calendar (u : Ef24) (cause : ActionCause) (index : Nat) (source : DispatchSource) (first : Nat) : (u.actionFault cause index source first).calendar = u.calendar := rfl
@[simp] theorem actionFault_schedule (u : Ef24) (cause : ActionCause) (index : Nat) (source : DispatchSource) (first : Nat) : (u.actionFault cause index source first).schedule = u.schedule := rfl
@[simp] theorem actionFault_power (u : Ef24) (cause : ActionCause) (index : Nat) (source : DispatchSource) (first : Nat) : (u.actionFault cause index source first).power = u.power := rfl
@[simp] theorem actionFault_chip (u : Ef24) (cause : ActionCause) (index : Nat) (source : DispatchSource) (first : Nat) : (u.actionFault cause index source first).chip = u.chip := rfl
@[simp] theorem actionFault_free (u : Ef24) (cause : ActionCause) (index : Nat) (source : DispatchSource) (first : Nat) : (u.actionFault cause index source first).free = u.free := rfl

/-! `respond` -/

@[simp] theorem respond_romCode (u : Ef24) (status : Status) (results : List Word) : (u.respond status results).romCode = u.romCode := rfl
@[simp] theorem respond_sramCode (u : Ef24) (status : Status) (results : List Word) : (u.respond status results).sramCode = u.sramCode := rfl
@[simp] theorem respond_rom (u : Ef24) (status : Status) (results : List Word) : (u.respond status results).rom = u.rom := rfl
@[simp] theorem respond_sram (u : Ef24) (status : Status) (results : List Word) : (u.respond status results).sram = u.sram := rfl
@[simp] theorem respond_readData (u : Ef24) (status : Status) (results : List Word) : (u.respond status results).readData = u.readData := rfl
@[simp] theorem respond_crstLow (u : Ef24) (status : Status) (results : List Word) : (u.respond status results).crstLow = u.crstLow := rfl
@[simp] theorem respond_windows (u : Ef24) (status : Status) (results : List Word) : (u.respond status results).windows = u.windows := rfl
@[simp] theorem respond_romPort (u : Ef24) (status : Status) (results : List Word) : (u.respond status results).romPort = u.romPort := rfl
@[simp] theorem respond_loader (u : Ef24) (status : Status) (results : List Word) : (u.respond status results).loader = u.loader := rfl
@[simp] theorem respond_actions (u : Ef24) (status : Status) (results : List Word) : (u.respond status results).actions = u.actions := rfl
@[simp] theorem respond_sound (u : Ef24) (status : Status) (results : List Word) : (u.respond status results).sound = u.sound := rfl
@[simp] theorem respond_rumble (u : Ef24) (status : Status) (results : List Word) : (u.respond status results).rumble = u.rumble := rfl
@[simp] theorem respond_save (u : Ef24) (status : Status) (results : List Word) : (u.respond status results).save = u.save := rfl
@[simp] theorem respond_calendar (u : Ef24) (status : Status) (results : List Word) : (u.respond status results).calendar = u.calendar := rfl
@[simp] theorem respond_schedule (u : Ef24) (status : Status) (results : List Word) : (u.respond status results).schedule = u.schedule := rfl
@[simp] theorem respond_events (u : Ef24) (status : Status) (results : List Word) : (u.respond status results).events = u.events := rfl
@[simp] theorem respond_power (u : Ef24) (status : Status) (results : List Word) : (u.respond status results).power = u.power := rfl
@[simp] theorem respond_chip (u : Ef24) (status : Status) (results : List Word) : (u.respond status results).chip = u.chip := rfl
@[simp] theorem respond_free (u : Ef24) (status : Status) (results : List Word) : (u.respond status results).free = u.free := rfl

/-! `answer` -/

@[simp] theorem answer_romCode (u : Ef24) (w : Word) : (u.answer w).romCode = u.romCode := rfl
@[simp] theorem answer_sramCode (u : Ef24) (w : Word) : (u.answer w).sramCode = u.sramCode := rfl
@[simp] theorem answer_rom (u : Ef24) (w : Word) : (u.answer w).rom = u.rom := rfl
@[simp] theorem answer_sram (u : Ef24) (w : Word) : (u.answer w).sram = u.sram := rfl
@[simp] theorem answer_crstLow (u : Ef24) (w : Word) : (u.answer w).crstLow = u.crstLow := rfl
@[simp] theorem answer_windows (u : Ef24) (w : Word) : (u.answer w).windows = u.windows := rfl
@[simp] theorem answer_romPort (u : Ef24) (w : Word) : (u.answer w).romPort = u.romPort := rfl
@[simp] theorem answer_command (u : Ef24) (w : Word) : (u.answer w).command = u.command := rfl
@[simp] theorem answer_loader (u : Ef24) (w : Word) : (u.answer w).loader = u.loader := rfl
@[simp] theorem answer_actions (u : Ef24) (w : Word) : (u.answer w).actions = u.actions := rfl
@[simp] theorem answer_sound (u : Ef24) (w : Word) : (u.answer w).sound = u.sound := rfl
@[simp] theorem answer_rumble (u : Ef24) (w : Word) : (u.answer w).rumble = u.rumble := rfl
@[simp] theorem answer_save (u : Ef24) (w : Word) : (u.answer w).save = u.save := rfl
@[simp] theorem answer_calendar (u : Ef24) (w : Word) : (u.answer w).calendar = u.calendar := rfl
@[simp] theorem answer_schedule (u : Ef24) (w : Word) : (u.answer w).schedule = u.schedule := rfl
@[simp] theorem answer_events (u : Ef24) (w : Word) : (u.answer w).events = u.events := rfl
@[simp] theorem answer_power (u : Ef24) (w : Word) : (u.answer w).power = u.power := rfl
@[simp] theorem answer_chip (u : Ef24) (w : Word) : (u.answer w).chip = u.chip := rfl
@[simp] theorem answer_free (u : Ef24) (w : Word) : (u.answer w).free = u.free := rfl

/-! `takeRomPort` -/

@[simp] theorem takeRomPort_romCode (u : Ef24) : (u.takeRomPort).romCode = u.romCode := rfl
@[simp] theorem takeRomPort_sramCode (u : Ef24) : (u.takeRomPort).sramCode = u.sramCode := rfl
@[simp] theorem takeRomPort_rom (u : Ef24) : (u.takeRomPort).rom = u.rom := rfl
@[simp] theorem takeRomPort_sram (u : Ef24) : (u.takeRomPort).sram = u.sram := rfl
@[simp] theorem takeRomPort_readData (u : Ef24) : (u.takeRomPort).readData = u.readData := rfl
@[simp] theorem takeRomPort_crstLow (u : Ef24) : (u.takeRomPort).crstLow = u.crstLow := rfl
@[simp] theorem takeRomPort_windows (u : Ef24) : (u.takeRomPort).windows = u.windows := rfl
@[simp] theorem takeRomPort_command (u : Ef24) : (u.takeRomPort).command = u.command := rfl
@[simp] theorem takeRomPort_loader (u : Ef24) : (u.takeRomPort).loader = u.loader := rfl
@[simp] theorem takeRomPort_actions (u : Ef24) : (u.takeRomPort).actions = u.actions := rfl
@[simp] theorem takeRomPort_sound (u : Ef24) : (u.takeRomPort).sound = u.sound := rfl
@[simp] theorem takeRomPort_rumble (u : Ef24) : (u.takeRomPort).rumble = u.rumble := rfl
@[simp] theorem takeRomPort_save (u : Ef24) : (u.takeRomPort).save = u.save := rfl
@[simp] theorem takeRomPort_calendar (u : Ef24) : (u.takeRomPort).calendar = u.calendar := rfl
@[simp] theorem takeRomPort_schedule (u : Ef24) : (u.takeRomPort).schedule = u.schedule := rfl
@[simp] theorem takeRomPort_events (u : Ef24) : (u.takeRomPort).events = u.events := rfl
@[simp] theorem takeRomPort_power (u : Ef24) : (u.takeRomPort).power = u.power := rfl
@[simp] theorem takeRomPort_chip (u : Ef24) : (u.takeRomPort).chip = u.chip := rfl
@[simp] theorem takeRomPort_free (u : Ef24) : (u.takeRomPort).free = u.free := rfl

/-! `freeRomPort` -/

@[simp] theorem freeRomPort_romCode (u : Ef24) : (u.freeRomPort).romCode = u.romCode := rfl
@[simp] theorem freeRomPort_sramCode (u : Ef24) : (u.freeRomPort).sramCode = u.sramCode := rfl
@[simp] theorem freeRomPort_rom (u : Ef24) : (u.freeRomPort).rom = u.rom := rfl
@[simp] theorem freeRomPort_sram (u : Ef24) : (u.freeRomPort).sram = u.sram := rfl
@[simp] theorem freeRomPort_readData (u : Ef24) : (u.freeRomPort).readData = u.readData := rfl
@[simp] theorem freeRomPort_crstLow (u : Ef24) : (u.freeRomPort).crstLow = u.crstLow := rfl
@[simp] theorem freeRomPort_windows (u : Ef24) : (u.freeRomPort).windows = u.windows := rfl
@[simp] theorem freeRomPort_command (u : Ef24) : (u.freeRomPort).command = u.command := rfl
@[simp] theorem freeRomPort_loader (u : Ef24) : (u.freeRomPort).loader = u.loader := rfl
@[simp] theorem freeRomPort_actions (u : Ef24) : (u.freeRomPort).actions = u.actions := rfl
@[simp] theorem freeRomPort_sound (u : Ef24) : (u.freeRomPort).sound = u.sound := rfl
@[simp] theorem freeRomPort_rumble (u : Ef24) : (u.freeRomPort).rumble = u.rumble := rfl
@[simp] theorem freeRomPort_save (u : Ef24) : (u.freeRomPort).save = u.save := rfl
@[simp] theorem freeRomPort_calendar (u : Ef24) : (u.freeRomPort).calendar = u.calendar := rfl
@[simp] theorem freeRomPort_schedule (u : Ef24) : (u.freeRomPort).schedule = u.schedule := rfl
@[simp] theorem freeRomPort_events (u : Ef24) : (u.freeRomPort).events = u.events := rfl
@[simp] theorem freeRomPort_power (u : Ef24) : (u.freeRomPort).power = u.power := rfl
@[simp] theorem freeRomPort_chip (u : Ef24) : (u.freeRomPort).chip = u.chip := rfl
@[simp] theorem freeRomPort_free (u : Ef24) : (u.freeRomPort).free = u.free := rfl

/-! `onSave` -/

@[simp] theorem onSave_romCode (u : Ef24) (f : Save → Save) : (u.onSave f).romCode = u.romCode := rfl
@[simp] theorem onSave_sramCode (u : Ef24) (f : Save → Save) : (u.onSave f).sramCode = u.sramCode := rfl
@[simp] theorem onSave_rom (u : Ef24) (f : Save → Save) : (u.onSave f).rom = u.rom := rfl
@[simp] theorem onSave_sram (u : Ef24) (f : Save → Save) : (u.onSave f).sram = u.sram := rfl
@[simp] theorem onSave_readData (u : Ef24) (f : Save → Save) : (u.onSave f).readData = u.readData := rfl
@[simp] theorem onSave_crstLow (u : Ef24) (f : Save → Save) : (u.onSave f).crstLow = u.crstLow := rfl
@[simp] theorem onSave_windows (u : Ef24) (f : Save → Save) : (u.onSave f).windows = u.windows := rfl
@[simp] theorem onSave_romPort (u : Ef24) (f : Save → Save) : (u.onSave f).romPort = u.romPort := rfl
@[simp] theorem onSave_command (u : Ef24) (f : Save → Save) : (u.onSave f).command = u.command := rfl
@[simp] theorem onSave_loader (u : Ef24) (f : Save → Save) : (u.onSave f).loader = u.loader := rfl
@[simp] theorem onSave_actions (u : Ef24) (f : Save → Save) : (u.onSave f).actions = u.actions := rfl
@[simp] theorem onSave_sound (u : Ef24) (f : Save → Save) : (u.onSave f).sound = u.sound := rfl
@[simp] theorem onSave_rumble (u : Ef24) (f : Save → Save) : (u.onSave f).rumble = u.rumble := rfl
@[simp] theorem onSave_calendar (u : Ef24) (f : Save → Save) : (u.onSave f).calendar = u.calendar := rfl
@[simp] theorem onSave_schedule (u : Ef24) (f : Save → Save) : (u.onSave f).schedule = u.schedule := rfl
@[simp] theorem onSave_events (u : Ef24) (f : Save → Save) : (u.onSave f).events = u.events := rfl
@[simp] theorem onSave_power (u : Ef24) (f : Save → Save) : (u.onSave f).power = u.power := rfl
@[simp] theorem onSave_chip (u : Ef24) (f : Save → Save) : (u.onSave f).chip = u.chip := rfl
@[simp] theorem onSave_free (u : Ef24) (f : Save → Save) : (u.onSave f).free = u.free := rfl

/-! `sequence` -/

@[simp] theorem sequence_romCode (u : Ef24) (q : Sequencer) : (u.sequence q).romCode = u.romCode := rfl
@[simp] theorem sequence_sramCode (u : Ef24) (q : Sequencer) : (u.sequence q).sramCode = u.sramCode := rfl
@[simp] theorem sequence_rom (u : Ef24) (q : Sequencer) : (u.sequence q).rom = u.rom := rfl
@[simp] theorem sequence_sram (u : Ef24) (q : Sequencer) : (u.sequence q).sram = u.sram := rfl
@[simp] theorem sequence_readData (u : Ef24) (q : Sequencer) : (u.sequence q).readData = u.readData := rfl
@[simp] theorem sequence_crstLow (u : Ef24) (q : Sequencer) : (u.sequence q).crstLow = u.crstLow := rfl
@[simp] theorem sequence_windows (u : Ef24) (q : Sequencer) : (u.sequence q).windows = u.windows := rfl
@[simp] theorem sequence_romPort (u : Ef24) (q : Sequencer) : (u.sequence q).romPort = u.romPort := rfl
@[simp] theorem sequence_command (u : Ef24) (q : Sequencer) : (u.sequence q).command = u.command := rfl
@[simp] theorem sequence_loader (u : Ef24) (q : Sequencer) : (u.sequence q).loader = u.loader := rfl
@[simp] theorem sequence_actions (u : Ef24) (q : Sequencer) : (u.sequence q).actions = u.actions := rfl
@[simp] theorem sequence_sound (u : Ef24) (q : Sequencer) : (u.sequence q).sound = u.sound := rfl
@[simp] theorem sequence_rumble (u : Ef24) (q : Sequencer) : (u.sequence q).rumble = u.rumble := rfl
@[simp] theorem sequence_calendar (u : Ef24) (q : Sequencer) : (u.sequence q).calendar = u.calendar := rfl
@[simp] theorem sequence_schedule (u : Ef24) (q : Sequencer) : (u.sequence q).schedule = u.schedule := rfl
@[simp] theorem sequence_events (u : Ef24) (q : Sequencer) : (u.sequence q).events = u.events := rfl
@[simp] theorem sequence_power (u : Ef24) (q : Sequencer) : (u.sequence q).power = u.power := rfl
@[simp] theorem sequence_chip (u : Ef24) (q : Sequencer) : (u.sequence q).chip = u.chip := rfl
@[simp] theorem sequence_free (u : Ef24) (q : Sequencer) : (u.sequence q).free = u.free := rfl

/-! `recover` -/

@[simp] theorem recover_romCode (u : Ef24) (stage : RecoveryStage) : (u.recover stage).romCode = u.romCode := rfl
@[simp] theorem recover_sramCode (u : Ef24) (stage : RecoveryStage) : (u.recover stage).sramCode = u.sramCode := rfl
@[simp] theorem recover_rom (u : Ef24) (stage : RecoveryStage) : (u.recover stage).rom = u.rom := rfl
@[simp] theorem recover_sram (u : Ef24) (stage : RecoveryStage) : (u.recover stage).sram = u.sram := rfl
@[simp] theorem recover_readData (u : Ef24) (stage : RecoveryStage) : (u.recover stage).readData = u.readData := rfl
@[simp] theorem recover_crstLow (u : Ef24) (stage : RecoveryStage) : (u.recover stage).crstLow = u.crstLow := rfl
@[simp] theorem recover_windows (u : Ef24) (stage : RecoveryStage) : (u.recover stage).windows = u.windows := rfl
@[simp] theorem recover_romPort (u : Ef24) (stage : RecoveryStage) : (u.recover stage).romPort = u.romPort := rfl
@[simp] theorem recover_command (u : Ef24) (stage : RecoveryStage) : (u.recover stage).command = u.command := rfl
@[simp] theorem recover_loader (u : Ef24) (stage : RecoveryStage) : (u.recover stage).loader = u.loader := rfl
@[simp] theorem recover_actions (u : Ef24) (stage : RecoveryStage) : (u.recover stage).actions = u.actions := rfl
@[simp] theorem recover_sound (u : Ef24) (stage : RecoveryStage) : (u.recover stage).sound = u.sound := rfl
@[simp] theorem recover_rumble (u : Ef24) (stage : RecoveryStage) : (u.recover stage).rumble = u.rumble := rfl
@[simp] theorem recover_calendar (u : Ef24) (stage : RecoveryStage) : (u.recover stage).calendar = u.calendar := rfl
@[simp] theorem recover_schedule (u : Ef24) (stage : RecoveryStage) : (u.recover stage).schedule = u.schedule := rfl
@[simp] theorem recover_events (u : Ef24) (stage : RecoveryStage) : (u.recover stage).events = u.events := rfl
@[simp] theorem recover_power (u : Ef24) (stage : RecoveryStage) : (u.recover stage).power = u.power := rfl
@[simp] theorem recover_chip (u : Ef24) (stage : RecoveryStage) : (u.recover stage).chip = u.chip := rfl
@[simp] theorem recover_free (u : Ef24) (stage : RecoveryStage) : (u.recover stage).free = u.free := rfl

/-! `beginIntent` -/

@[simp] theorem beginIntent_romCode (u : Ef24) (commit : Bool) (k : Nat) (r : SlotRecord) : (u.beginIntent commit k r).romCode = u.romCode := rfl
@[simp] theorem beginIntent_sramCode (u : Ef24) (commit : Bool) (k : Nat) (r : SlotRecord) : (u.beginIntent commit k r).sramCode = u.sramCode := rfl
@[simp] theorem beginIntent_rom (u : Ef24) (commit : Bool) (k : Nat) (r : SlotRecord) : (u.beginIntent commit k r).rom = u.rom := rfl
@[simp] theorem beginIntent_sram (u : Ef24) (commit : Bool) (k : Nat) (r : SlotRecord) : (u.beginIntent commit k r).sram = u.sram := rfl
@[simp] theorem beginIntent_readData (u : Ef24) (commit : Bool) (k : Nat) (r : SlotRecord) : (u.beginIntent commit k r).readData = u.readData := rfl
@[simp] theorem beginIntent_crstLow (u : Ef24) (commit : Bool) (k : Nat) (r : SlotRecord) : (u.beginIntent commit k r).crstLow = u.crstLow := rfl
@[simp] theorem beginIntent_windows (u : Ef24) (commit : Bool) (k : Nat) (r : SlotRecord) : (u.beginIntent commit k r).windows = u.windows := rfl
@[simp] theorem beginIntent_romPort (u : Ef24) (commit : Bool) (k : Nat) (r : SlotRecord) : (u.beginIntent commit k r).romPort = u.romPort := rfl
@[simp] theorem beginIntent_command (u : Ef24) (commit : Bool) (k : Nat) (r : SlotRecord) : (u.beginIntent commit k r).command = u.command := rfl
@[simp] theorem beginIntent_loader (u : Ef24) (commit : Bool) (k : Nat) (r : SlotRecord) : (u.beginIntent commit k r).loader = u.loader := rfl
@[simp] theorem beginIntent_actions (u : Ef24) (commit : Bool) (k : Nat) (r : SlotRecord) : (u.beginIntent commit k r).actions = u.actions := rfl
@[simp] theorem beginIntent_sound (u : Ef24) (commit : Bool) (k : Nat) (r : SlotRecord) : (u.beginIntent commit k r).sound = u.sound := rfl
@[simp] theorem beginIntent_rumble (u : Ef24) (commit : Bool) (k : Nat) (r : SlotRecord) : (u.beginIntent commit k r).rumble = u.rumble := rfl
@[simp] theorem beginIntent_calendar (u : Ef24) (commit : Bool) (k : Nat) (r : SlotRecord) : (u.beginIntent commit k r).calendar = u.calendar := rfl
@[simp] theorem beginIntent_schedule (u : Ef24) (commit : Bool) (k : Nat) (r : SlotRecord) : (u.beginIntent commit k r).schedule = u.schedule := rfl
@[simp] theorem beginIntent_events (u : Ef24) (commit : Bool) (k : Nat) (r : SlotRecord) : (u.beginIntent commit k r).events = u.events := rfl
@[simp] theorem beginIntent_power (u : Ef24) (commit : Bool) (k : Nat) (r : SlotRecord) : (u.beginIntent commit k r).power = u.power := rfl
@[simp] theorem beginIntent_chip (u : Ef24) (commit : Bool) (k : Nat) (r : SlotRecord) : (u.beginIntent commit k r).chip = u.chip := rfl
@[simp] theorem beginIntent_free (u : Ef24) (commit : Bool) (k : Nat) (r : SlotRecord) : (u.beginIntent commit k r).free = u.free := rfl

/-! `setTainted` -/

@[simp] theorem setTainted_romCode (u : Ef24) (k : Nat) (b : Bool) : (u.setTainted k b).romCode = u.romCode := rfl
@[simp] theorem setTainted_sramCode (u : Ef24) (k : Nat) (b : Bool) : (u.setTainted k b).sramCode = u.sramCode := rfl
@[simp] theorem setTainted_rom (u : Ef24) (k : Nat) (b : Bool) : (u.setTainted k b).rom = u.rom := rfl
@[simp] theorem setTainted_sram (u : Ef24) (k : Nat) (b : Bool) : (u.setTainted k b).sram = u.sram := rfl
@[simp] theorem setTainted_readData (u : Ef24) (k : Nat) (b : Bool) : (u.setTainted k b).readData = u.readData := rfl
@[simp] theorem setTainted_crstLow (u : Ef24) (k : Nat) (b : Bool) : (u.setTainted k b).crstLow = u.crstLow := rfl
@[simp] theorem setTainted_windows (u : Ef24) (k : Nat) (b : Bool) : (u.setTainted k b).windows = u.windows := rfl
@[simp] theorem setTainted_romPort (u : Ef24) (k : Nat) (b : Bool) : (u.setTainted k b).romPort = u.romPort := rfl
@[simp] theorem setTainted_command (u : Ef24) (k : Nat) (b : Bool) : (u.setTainted k b).command = u.command := rfl
@[simp] theorem setTainted_loader (u : Ef24) (k : Nat) (b : Bool) : (u.setTainted k b).loader = u.loader := rfl
@[simp] theorem setTainted_actions (u : Ef24) (k : Nat) (b : Bool) : (u.setTainted k b).actions = u.actions := rfl
@[simp] theorem setTainted_sound (u : Ef24) (k : Nat) (b : Bool) : (u.setTainted k b).sound = u.sound := rfl
@[simp] theorem setTainted_rumble (u : Ef24) (k : Nat) (b : Bool) : (u.setTainted k b).rumble = u.rumble := rfl
@[simp] theorem setTainted_calendar (u : Ef24) (k : Nat) (b : Bool) : (u.setTainted k b).calendar = u.calendar := rfl
@[simp] theorem setTainted_schedule (u : Ef24) (k : Nat) (b : Bool) : (u.setTainted k b).schedule = u.schedule := rfl
@[simp] theorem setTainted_events (u : Ef24) (k : Nat) (b : Bool) : (u.setTainted k b).events = u.events := rfl
@[simp] theorem setTainted_power (u : Ef24) (k : Nat) (b : Bool) : (u.setTainted k b).power = u.power := rfl
@[simp] theorem setTainted_chip (u : Ef24) (k : Nat) (b : Bool) : (u.setTainted k b).chip = u.chip := rfl
@[simp] theorem setTainted_free (u : Ef24) (k : Nat) (b : Bool) : (u.setTainted k b).free = u.free := rfl

/-! `setBad` -/

@[simp] theorem setBad_romCode (u : Ef24) (k : Nat) (b : Bool) : (u.setBad k b).romCode = u.romCode := rfl
@[simp] theorem setBad_sramCode (u : Ef24) (k : Nat) (b : Bool) : (u.setBad k b).sramCode = u.sramCode := rfl
@[simp] theorem setBad_rom (u : Ef24) (k : Nat) (b : Bool) : (u.setBad k b).rom = u.rom := rfl
@[simp] theorem setBad_sram (u : Ef24) (k : Nat) (b : Bool) : (u.setBad k b).sram = u.sram := rfl
@[simp] theorem setBad_readData (u : Ef24) (k : Nat) (b : Bool) : (u.setBad k b).readData = u.readData := rfl
@[simp] theorem setBad_crstLow (u : Ef24) (k : Nat) (b : Bool) : (u.setBad k b).crstLow = u.crstLow := rfl
@[simp] theorem setBad_windows (u : Ef24) (k : Nat) (b : Bool) : (u.setBad k b).windows = u.windows := rfl
@[simp] theorem setBad_romPort (u : Ef24) (k : Nat) (b : Bool) : (u.setBad k b).romPort = u.romPort := rfl
@[simp] theorem setBad_command (u : Ef24) (k : Nat) (b : Bool) : (u.setBad k b).command = u.command := rfl
@[simp] theorem setBad_loader (u : Ef24) (k : Nat) (b : Bool) : (u.setBad k b).loader = u.loader := rfl
@[simp] theorem setBad_actions (u : Ef24) (k : Nat) (b : Bool) : (u.setBad k b).actions = u.actions := rfl
@[simp] theorem setBad_sound (u : Ef24) (k : Nat) (b : Bool) : (u.setBad k b).sound = u.sound := rfl
@[simp] theorem setBad_rumble (u : Ef24) (k : Nat) (b : Bool) : (u.setBad k b).rumble = u.rumble := rfl
@[simp] theorem setBad_calendar (u : Ef24) (k : Nat) (b : Bool) : (u.setBad k b).calendar = u.calendar := rfl
@[simp] theorem setBad_schedule (u : Ef24) (k : Nat) (b : Bool) : (u.setBad k b).schedule = u.schedule := rfl
@[simp] theorem setBad_events (u : Ef24) (k : Nat) (b : Bool) : (u.setBad k b).events = u.events := rfl
@[simp] theorem setBad_power (u : Ef24) (k : Nat) (b : Bool) : (u.setBad k b).power = u.power := rfl
@[simp] theorem setBad_chip (u : Ef24) (k : Nat) (b : Bool) : (u.setBad k b).chip = u.chip := rfl
@[simp] theorem setBad_free (u : Ef24) (k : Nat) (b : Bool) : (u.setBad k b).free = u.free := rfl

/-! `setGuard` -/

@[simp] theorem setGuard_romCode (u : Ef24) (b : Bool) : (u.setGuard b).romCode = u.romCode := rfl
@[simp] theorem setGuard_sramCode (u : Ef24) (b : Bool) : (u.setGuard b).sramCode = u.sramCode := rfl
@[simp] theorem setGuard_rom (u : Ef24) (b : Bool) : (u.setGuard b).rom = u.rom := rfl
@[simp] theorem setGuard_sram (u : Ef24) (b : Bool) : (u.setGuard b).sram = u.sram := rfl
@[simp] theorem setGuard_readData (u : Ef24) (b : Bool) : (u.setGuard b).readData = u.readData := rfl
@[simp] theorem setGuard_crstLow (u : Ef24) (b : Bool) : (u.setGuard b).crstLow = u.crstLow := rfl
@[simp] theorem setGuard_windows (u : Ef24) (b : Bool) : (u.setGuard b).windows = u.windows := rfl
@[simp] theorem setGuard_romPort (u : Ef24) (b : Bool) : (u.setGuard b).romPort = u.romPort := rfl
@[simp] theorem setGuard_command (u : Ef24) (b : Bool) : (u.setGuard b).command = u.command := rfl
@[simp] theorem setGuard_loader (u : Ef24) (b : Bool) : (u.setGuard b).loader = u.loader := rfl
@[simp] theorem setGuard_actions (u : Ef24) (b : Bool) : (u.setGuard b).actions = u.actions := rfl
@[simp] theorem setGuard_sound (u : Ef24) (b : Bool) : (u.setGuard b).sound = u.sound := rfl
@[simp] theorem setGuard_rumble (u : Ef24) (b : Bool) : (u.setGuard b).rumble = u.rumble := rfl
@[simp] theorem setGuard_calendar (u : Ef24) (b : Bool) : (u.setGuard b).calendar = u.calendar := rfl
@[simp] theorem setGuard_schedule (u : Ef24) (b : Bool) : (u.setGuard b).schedule = u.schedule := rfl
@[simp] theorem setGuard_events (u : Ef24) (b : Bool) : (u.setGuard b).events = u.events := rfl
@[simp] theorem setGuard_power (u : Ef24) (b : Bool) : (u.setGuard b).power = u.power := rfl
@[simp] theorem setGuard_chip (u : Ef24) (b : Bool) : (u.setGuard b).chip = u.chip := rfl
@[simp] theorem setGuard_free (u : Ef24) (b : Bool) : (u.setGuard b).free = u.free := rfl

/-! `copyRecord` -/

@[simp] theorem copyRecord_romCode (u : Ef24) (k : Nat) (r : SlotRecord) : (u.copyRecord k r).romCode = u.romCode := rfl
@[simp] theorem copyRecord_sramCode (u : Ef24) (k : Nat) (r : SlotRecord) : (u.copyRecord k r).sramCode = u.sramCode := rfl
@[simp] theorem copyRecord_rom (u : Ef24) (k : Nat) (r : SlotRecord) : (u.copyRecord k r).rom = u.rom := rfl
@[simp] theorem copyRecord_sram (u : Ef24) (k : Nat) (r : SlotRecord) : (u.copyRecord k r).sram = u.sram := rfl
@[simp] theorem copyRecord_readData (u : Ef24) (k : Nat) (r : SlotRecord) : (u.copyRecord k r).readData = u.readData := rfl
@[simp] theorem copyRecord_crstLow (u : Ef24) (k : Nat) (r : SlotRecord) : (u.copyRecord k r).crstLow = u.crstLow := rfl
@[simp] theorem copyRecord_windows (u : Ef24) (k : Nat) (r : SlotRecord) : (u.copyRecord k r).windows = u.windows := rfl
@[simp] theorem copyRecord_romPort (u : Ef24) (k : Nat) (r : SlotRecord) : (u.copyRecord k r).romPort = u.romPort := rfl
@[simp] theorem copyRecord_command (u : Ef24) (k : Nat) (r : SlotRecord) : (u.copyRecord k r).command = u.command := rfl
@[simp] theorem copyRecord_loader (u : Ef24) (k : Nat) (r : SlotRecord) : (u.copyRecord k r).loader = u.loader := rfl
@[simp] theorem copyRecord_actions (u : Ef24) (k : Nat) (r : SlotRecord) : (u.copyRecord k r).actions = u.actions := rfl
@[simp] theorem copyRecord_sound (u : Ef24) (k : Nat) (r : SlotRecord) : (u.copyRecord k r).sound = u.sound := rfl
@[simp] theorem copyRecord_rumble (u : Ef24) (k : Nat) (r : SlotRecord) : (u.copyRecord k r).rumble = u.rumble := rfl
@[simp] theorem copyRecord_calendar (u : Ef24) (k : Nat) (r : SlotRecord) : (u.copyRecord k r).calendar = u.calendar := rfl
@[simp] theorem copyRecord_schedule (u : Ef24) (k : Nat) (r : SlotRecord) : (u.copyRecord k r).schedule = u.schedule := rfl
@[simp] theorem copyRecord_events (u : Ef24) (k : Nat) (r : SlotRecord) : (u.copyRecord k r).events = u.events := rfl
@[simp] theorem copyRecord_power (u : Ef24) (k : Nat) (r : SlotRecord) : (u.copyRecord k r).power = u.power := rfl
@[simp] theorem copyRecord_chip (u : Ef24) (k : Nat) (r : SlotRecord) : (u.copyRecord k r).chip = u.chip := rfl
@[simp] theorem copyRecord_free (u : Ef24) (k : Nat) (r : SlotRecord) : (u.copyRecord k r).free = u.free := rfl

/-! `takeSramPort` -/

@[simp] theorem takeSramPort_romCode (u : Ef24) : (u.takeSramPort).romCode = u.romCode := rfl
@[simp] theorem takeSramPort_sramCode (u : Ef24) : (u.takeSramPort).sramCode = u.sramCode := rfl
@[simp] theorem takeSramPort_rom (u : Ef24) : (u.takeSramPort).rom = u.rom := rfl
@[simp] theorem takeSramPort_sram (u : Ef24) : (u.takeSramPort).sram = u.sram := rfl
@[simp] theorem takeSramPort_readData (u : Ef24) : (u.takeSramPort).readData = u.readData := rfl
@[simp] theorem takeSramPort_crstLow (u : Ef24) : (u.takeSramPort).crstLow = u.crstLow := rfl
@[simp] theorem takeSramPort_windows (u : Ef24) : (u.takeSramPort).windows = u.windows := rfl
@[simp] theorem takeSramPort_romPort (u : Ef24) : (u.takeSramPort).romPort = u.romPort := rfl
@[simp] theorem takeSramPort_command (u : Ef24) : (u.takeSramPort).command = u.command := rfl
@[simp] theorem takeSramPort_loader (u : Ef24) : (u.takeSramPort).loader = u.loader := rfl
@[simp] theorem takeSramPort_actions (u : Ef24) : (u.takeSramPort).actions = u.actions := rfl
@[simp] theorem takeSramPort_sound (u : Ef24) : (u.takeSramPort).sound = u.sound := rfl
@[simp] theorem takeSramPort_rumble (u : Ef24) : (u.takeSramPort).rumble = u.rumble := rfl
@[simp] theorem takeSramPort_calendar (u : Ef24) : (u.takeSramPort).calendar = u.calendar := rfl
@[simp] theorem takeSramPort_schedule (u : Ef24) : (u.takeSramPort).schedule = u.schedule := rfl
@[simp] theorem takeSramPort_events (u : Ef24) : (u.takeSramPort).events = u.events := rfl
@[simp] theorem takeSramPort_power (u : Ef24) : (u.takeSramPort).power = u.power := rfl
@[simp] theorem takeSramPort_chip (u : Ef24) : (u.takeSramPort).chip = u.chip := rfl
@[simp] theorem takeSramPort_free (u : Ef24) : (u.takeSramPort).free = u.free := rfl

/-! `joinFlags` -/

@[simp] theorem joinFlags_romCode (u : Ef24) (op : FlagOp) : (u.joinFlags op).romCode = u.romCode := rfl
@[simp] theorem joinFlags_sramCode (u : Ef24) (op : FlagOp) : (u.joinFlags op).sramCode = u.sramCode := rfl
@[simp] theorem joinFlags_rom (u : Ef24) (op : FlagOp) : (u.joinFlags op).rom = u.rom := rfl
@[simp] theorem joinFlags_sram (u : Ef24) (op : FlagOp) : (u.joinFlags op).sram = u.sram := rfl
@[simp] theorem joinFlags_readData (u : Ef24) (op : FlagOp) : (u.joinFlags op).readData = u.readData := rfl
@[simp] theorem joinFlags_crstLow (u : Ef24) (op : FlagOp) : (u.joinFlags op).crstLow = u.crstLow := rfl
@[simp] theorem joinFlags_windows (u : Ef24) (op : FlagOp) : (u.joinFlags op).windows = u.windows := rfl
@[simp] theorem joinFlags_romPort (u : Ef24) (op : FlagOp) : (u.joinFlags op).romPort = u.romPort := rfl
@[simp] theorem joinFlags_command (u : Ef24) (op : FlagOp) : (u.joinFlags op).command = u.command := rfl
@[simp] theorem joinFlags_loader (u : Ef24) (op : FlagOp) : (u.joinFlags op).loader = u.loader := rfl
@[simp] theorem joinFlags_actions (u : Ef24) (op : FlagOp) : (u.joinFlags op).actions = u.actions := rfl
@[simp] theorem joinFlags_sound (u : Ef24) (op : FlagOp) : (u.joinFlags op).sound = u.sound := rfl
@[simp] theorem joinFlags_rumble (u : Ef24) (op : FlagOp) : (u.joinFlags op).rumble = u.rumble := rfl
@[simp] theorem joinFlags_calendar (u : Ef24) (op : FlagOp) : (u.joinFlags op).calendar = u.calendar := rfl
@[simp] theorem joinFlags_schedule (u : Ef24) (op : FlagOp) : (u.joinFlags op).schedule = u.schedule := rfl
@[simp] theorem joinFlags_events (u : Ef24) (op : FlagOp) : (u.joinFlags op).events = u.events := rfl
@[simp] theorem joinFlags_power (u : Ef24) (op : FlagOp) : (u.joinFlags op).power = u.power := rfl
@[simp] theorem joinFlags_chip (u : Ef24) (op : FlagOp) : (u.joinFlags op).chip = u.chip := rfl
@[simp] theorem joinFlags_free (u : Ef24) (op : FlagOp) : (u.joinFlags op).free = u.free := rfl

/-! `finishRecovery` -/

@[simp] theorem finishRecovery_romCode (u : Ef24) : (u.finishRecovery).romCode = u.romCode := rfl
@[simp] theorem finishRecovery_sramCode (u : Ef24) : (u.finishRecovery).sramCode = u.sramCode := rfl
@[simp] theorem finishRecovery_rom (u : Ef24) : (u.finishRecovery).rom = u.rom := rfl
@[simp] theorem finishRecovery_sram (u : Ef24) : (u.finishRecovery).sram = u.sram := rfl
@[simp] theorem finishRecovery_readData (u : Ef24) : (u.finishRecovery).readData = u.readData := rfl
@[simp] theorem finishRecovery_crstLow (u : Ef24) : (u.finishRecovery).crstLow = u.crstLow := rfl
@[simp] theorem finishRecovery_windows (u : Ef24) : (u.finishRecovery).windows = u.windows := rfl
@[simp] theorem finishRecovery_romPort (u : Ef24) : (u.finishRecovery).romPort = u.romPort := rfl
@[simp] theorem finishRecovery_command (u : Ef24) : (u.finishRecovery).command = u.command := rfl
@[simp] theorem finishRecovery_loader (u : Ef24) : (u.finishRecovery).loader = u.loader := rfl
@[simp] theorem finishRecovery_actions (u : Ef24) : (u.finishRecovery).actions = u.actions := rfl
@[simp] theorem finishRecovery_sound (u : Ef24) : (u.finishRecovery).sound = u.sound := rfl
@[simp] theorem finishRecovery_rumble (u : Ef24) : (u.finishRecovery).rumble = u.rumble := rfl
@[simp] theorem finishRecovery_calendar (u : Ef24) : (u.finishRecovery).calendar = u.calendar := rfl
@[simp] theorem finishRecovery_schedule (u : Ef24) : (u.finishRecovery).schedule = u.schedule := rfl
@[simp] theorem finishRecovery_events (u : Ef24) : (u.finishRecovery).events = u.events := rfl
@[simp] theorem finishRecovery_power (u : Ef24) : (u.finishRecovery).power = u.power := rfl
@[simp] theorem finishRecovery_chip (u : Ef24) : (u.finishRecovery).chip = u.chip := rfl
@[simp] theorem finishRecovery_free (u : Ef24) : (u.finishRecovery).free = u.free := rfl

/-! `closeGate` -/

@[simp] theorem closeGate_romCode (u : Ef24) : (u.closeGate).romCode = u.romCode := rfl
@[simp] theorem closeGate_sramCode (u : Ef24) : (u.closeGate).sramCode = u.sramCode := rfl
@[simp] theorem closeGate_rom (u : Ef24) : (u.closeGate).rom = u.rom := rfl
@[simp] theorem closeGate_sram (u : Ef24) : (u.closeGate).sram = u.sram := rfl
@[simp] theorem closeGate_readData (u : Ef24) : (u.closeGate).readData = u.readData := rfl
@[simp] theorem closeGate_crstLow (u : Ef24) : (u.closeGate).crstLow = u.crstLow := rfl
@[simp] theorem closeGate_windows (u : Ef24) : (u.closeGate).windows = u.windows := rfl
@[simp] theorem closeGate_romPort (u : Ef24) : (u.closeGate).romPort = u.romPort := rfl
@[simp] theorem closeGate_command (u : Ef24) : (u.closeGate).command = u.command := rfl
@[simp] theorem closeGate_loader (u : Ef24) : (u.closeGate).loader = u.loader := rfl
@[simp] theorem closeGate_actions (u : Ef24) : (u.closeGate).actions = u.actions := rfl
@[simp] theorem closeGate_sound (u : Ef24) : (u.closeGate).sound = u.sound := rfl
@[simp] theorem closeGate_rumble (u : Ef24) : (u.closeGate).rumble = u.rumble := rfl
@[simp] theorem closeGate_calendar (u : Ef24) : (u.closeGate).calendar = u.calendar := rfl
@[simp] theorem closeGate_schedule (u : Ef24) : (u.closeGate).schedule = u.schedule := rfl
@[simp] theorem closeGate_events (u : Ef24) : (u.closeGate).events = u.events := rfl
@[simp] theorem closeGate_power (u : Ef24) : (u.closeGate).power = u.power := rfl
@[simp] theorem closeGate_chip (u : Ef24) : (u.closeGate).chip = u.chip := rfl
@[simp] theorem closeGate_free (u : Ef24) : (u.closeGate).free = u.free := rfl

/-! `drainAll` -/

@[simp] theorem drainAll_romCode (u : Ef24) : (u.drainAll).romCode = u.romCode := rfl
@[simp] theorem drainAll_sramCode (u : Ef24) : (u.drainAll).sramCode = u.sramCode := rfl
@[simp] theorem drainAll_rom (u : Ef24) : (u.drainAll).rom = u.rom := rfl
@[simp] theorem drainAll_readData (u : Ef24) : (u.drainAll).readData = u.readData := rfl
@[simp] theorem drainAll_crstLow (u : Ef24) : (u.drainAll).crstLow = u.crstLow := rfl
@[simp] theorem drainAll_windows (u : Ef24) : (u.drainAll).windows = u.windows := rfl
@[simp] theorem drainAll_romPort (u : Ef24) : (u.drainAll).romPort = u.romPort := rfl
@[simp] theorem drainAll_command (u : Ef24) : (u.drainAll).command = u.command := rfl
@[simp] theorem drainAll_loader (u : Ef24) : (u.drainAll).loader = u.loader := rfl
@[simp] theorem drainAll_actions (u : Ef24) : (u.drainAll).actions = u.actions := rfl
@[simp] theorem drainAll_sound (u : Ef24) : (u.drainAll).sound = u.sound := rfl
@[simp] theorem drainAll_rumble (u : Ef24) : (u.drainAll).rumble = u.rumble := rfl
@[simp] theorem drainAll_calendar (u : Ef24) : (u.drainAll).calendar = u.calendar := rfl
@[simp] theorem drainAll_schedule (u : Ef24) : (u.drainAll).schedule = u.schedule := rfl
@[simp] theorem drainAll_events (u : Ef24) : (u.drainAll).events = u.events := rfl
@[simp] theorem drainAll_power (u : Ef24) : (u.drainAll).power = u.power := rfl
@[simp] theorem drainAll_chip (u : Ef24) : (u.drainAll).chip = u.chip := rfl
@[simp] theorem drainAll_free (u : Ef24) : (u.drainAll).free = u.free := rfl

/-! `onCalendar` -/

@[simp] theorem onCalendar_romCode (u : Ef24) (f : Calendar → Calendar) : (u.onCalendar f).romCode = u.romCode := rfl
@[simp] theorem onCalendar_sramCode (u : Ef24) (f : Calendar → Calendar) : (u.onCalendar f).sramCode = u.sramCode := rfl
@[simp] theorem onCalendar_rom (u : Ef24) (f : Calendar → Calendar) : (u.onCalendar f).rom = u.rom := rfl
@[simp] theorem onCalendar_sram (u : Ef24) (f : Calendar → Calendar) : (u.onCalendar f).sram = u.sram := rfl
@[simp] theorem onCalendar_readData (u : Ef24) (f : Calendar → Calendar) : (u.onCalendar f).readData = u.readData := rfl
@[simp] theorem onCalendar_crstLow (u : Ef24) (f : Calendar → Calendar) : (u.onCalendar f).crstLow = u.crstLow := rfl
@[simp] theorem onCalendar_windows (u : Ef24) (f : Calendar → Calendar) : (u.onCalendar f).windows = u.windows := rfl
@[simp] theorem onCalendar_romPort (u : Ef24) (f : Calendar → Calendar) : (u.onCalendar f).romPort = u.romPort := rfl
@[simp] theorem onCalendar_command (u : Ef24) (f : Calendar → Calendar) : (u.onCalendar f).command = u.command := rfl
@[simp] theorem onCalendar_loader (u : Ef24) (f : Calendar → Calendar) : (u.onCalendar f).loader = u.loader := rfl
@[simp] theorem onCalendar_actions (u : Ef24) (f : Calendar → Calendar) : (u.onCalendar f).actions = u.actions := rfl
@[simp] theorem onCalendar_sound (u : Ef24) (f : Calendar → Calendar) : (u.onCalendar f).sound = u.sound := rfl
@[simp] theorem onCalendar_rumble (u : Ef24) (f : Calendar → Calendar) : (u.onCalendar f).rumble = u.rumble := rfl
@[simp] theorem onCalendar_save (u : Ef24) (f : Calendar → Calendar) : (u.onCalendar f).save = u.save := rfl
@[simp] theorem onCalendar_schedule (u : Ef24) (f : Calendar → Calendar) : (u.onCalendar f).schedule = u.schedule := rfl
@[simp] theorem onCalendar_events (u : Ef24) (f : Calendar → Calendar) : (u.onCalendar f).events = u.events := rfl
@[simp] theorem onCalendar_power (u : Ef24) (f : Calendar → Calendar) : (u.onCalendar f).power = u.power := rfl
@[simp] theorem onCalendar_chip (u : Ef24) (f : Calendar → Calendar) : (u.onCalendar f).chip = u.chip := rfl
@[simp] theorem onCalendar_free (u : Ef24) (f : Calendar → Calendar) : (u.onCalendar f).free = u.free := rfl

/-! `onEntry` -/

@[simp] theorem onEntry_romCode (u : Ef24) (i : Nat) (f : ScheduleEntry → ScheduleEntry) : (u.onEntry i f).romCode = u.romCode := rfl
@[simp] theorem onEntry_sramCode (u : Ef24) (i : Nat) (f : ScheduleEntry → ScheduleEntry) : (u.onEntry i f).sramCode = u.sramCode := rfl
@[simp] theorem onEntry_rom (u : Ef24) (i : Nat) (f : ScheduleEntry → ScheduleEntry) : (u.onEntry i f).rom = u.rom := rfl
@[simp] theorem onEntry_sram (u : Ef24) (i : Nat) (f : ScheduleEntry → ScheduleEntry) : (u.onEntry i f).sram = u.sram := rfl
@[simp] theorem onEntry_readData (u : Ef24) (i : Nat) (f : ScheduleEntry → ScheduleEntry) : (u.onEntry i f).readData = u.readData := rfl
@[simp] theorem onEntry_crstLow (u : Ef24) (i : Nat) (f : ScheduleEntry → ScheduleEntry) : (u.onEntry i f).crstLow = u.crstLow := rfl
@[simp] theorem onEntry_windows (u : Ef24) (i : Nat) (f : ScheduleEntry → ScheduleEntry) : (u.onEntry i f).windows = u.windows := rfl
@[simp] theorem onEntry_romPort (u : Ef24) (i : Nat) (f : ScheduleEntry → ScheduleEntry) : (u.onEntry i f).romPort = u.romPort := rfl
@[simp] theorem onEntry_command (u : Ef24) (i : Nat) (f : ScheduleEntry → ScheduleEntry) : (u.onEntry i f).command = u.command := rfl
@[simp] theorem onEntry_loader (u : Ef24) (i : Nat) (f : ScheduleEntry → ScheduleEntry) : (u.onEntry i f).loader = u.loader := rfl
@[simp] theorem onEntry_actions (u : Ef24) (i : Nat) (f : ScheduleEntry → ScheduleEntry) : (u.onEntry i f).actions = u.actions := rfl
@[simp] theorem onEntry_sound (u : Ef24) (i : Nat) (f : ScheduleEntry → ScheduleEntry) : (u.onEntry i f).sound = u.sound := rfl
@[simp] theorem onEntry_rumble (u : Ef24) (i : Nat) (f : ScheduleEntry → ScheduleEntry) : (u.onEntry i f).rumble = u.rumble := rfl
@[simp] theorem onEntry_save (u : Ef24) (i : Nat) (f : ScheduleEntry → ScheduleEntry) : (u.onEntry i f).save = u.save := rfl
@[simp] theorem onEntry_calendar (u : Ef24) (i : Nat) (f : ScheduleEntry → ScheduleEntry) : (u.onEntry i f).calendar = u.calendar := rfl
@[simp] theorem onEntry_events (u : Ef24) (i : Nat) (f : ScheduleEntry → ScheduleEntry) : (u.onEntry i f).events = u.events := rfl
@[simp] theorem onEntry_power (u : Ef24) (i : Nat) (f : ScheduleEntry → ScheduleEntry) : (u.onEntry i f).power = u.power := rfl
@[simp] theorem onEntry_chip (u : Ef24) (i : Nat) (f : ScheduleEntry → ScheduleEntry) : (u.onEntry i f).chip = u.chip := rfl
@[simp] theorem onEntry_free (u : Ef24) (i : Nat) (f : ScheduleEntry → ScheduleEntry) : (u.onEntry i f).free = u.free := rfl

/-! `setPending` -/

@[simp] theorem setPending_romCode (u : Ef24) (i : Nat) (b : Bool) : (u.setPending i b).romCode = u.romCode := rfl
@[simp] theorem setPending_sramCode (u : Ef24) (i : Nat) (b : Bool) : (u.setPending i b).sramCode = u.sramCode := rfl
@[simp] theorem setPending_rom (u : Ef24) (i : Nat) (b : Bool) : (u.setPending i b).rom = u.rom := rfl
@[simp] theorem setPending_sram (u : Ef24) (i : Nat) (b : Bool) : (u.setPending i b).sram = u.sram := rfl
@[simp] theorem setPending_readData (u : Ef24) (i : Nat) (b : Bool) : (u.setPending i b).readData = u.readData := rfl
@[simp] theorem setPending_crstLow (u : Ef24) (i : Nat) (b : Bool) : (u.setPending i b).crstLow = u.crstLow := rfl
@[simp] theorem setPending_windows (u : Ef24) (i : Nat) (b : Bool) : (u.setPending i b).windows = u.windows := rfl
@[simp] theorem setPending_romPort (u : Ef24) (i : Nat) (b : Bool) : (u.setPending i b).romPort = u.romPort := rfl
@[simp] theorem setPending_command (u : Ef24) (i : Nat) (b : Bool) : (u.setPending i b).command = u.command := rfl
@[simp] theorem setPending_loader (u : Ef24) (i : Nat) (b : Bool) : (u.setPending i b).loader = u.loader := rfl
@[simp] theorem setPending_actions (u : Ef24) (i : Nat) (b : Bool) : (u.setPending i b).actions = u.actions := rfl
@[simp] theorem setPending_sound (u : Ef24) (i : Nat) (b : Bool) : (u.setPending i b).sound = u.sound := rfl
@[simp] theorem setPending_rumble (u : Ef24) (i : Nat) (b : Bool) : (u.setPending i b).rumble = u.rumble := rfl
@[simp] theorem setPending_save (u : Ef24) (i : Nat) (b : Bool) : (u.setPending i b).save = u.save := rfl
@[simp] theorem setPending_calendar (u : Ef24) (i : Nat) (b : Bool) : (u.setPending i b).calendar = u.calendar := rfl
@[simp] theorem setPending_events (u : Ef24) (i : Nat) (b : Bool) : (u.setPending i b).events = u.events := rfl
@[simp] theorem setPending_power (u : Ef24) (i : Nat) (b : Bool) : (u.setPending i b).power = u.power := rfl
@[simp] theorem setPending_chip (u : Ef24) (i : Nat) (b : Bool) : (u.setPending i b).chip = u.chip := rfl
@[simp] theorem setPending_free (u : Ef24) (i : Nat) (b : Bool) : (u.setPending i b).free = u.free := rfl

/-! `endLoad` -/

@[simp] theorem endLoad_romCode (u : Ef24) (status : Status) (item : Nat) : (u.endLoad status item).romCode = u.romCode := rfl
@[simp] theorem endLoad_sramCode (u : Ef24) (status : Status) (item : Nat) : (u.endLoad status item).sramCode = u.sramCode := rfl
@[simp] theorem endLoad_rom (u : Ef24) (status : Status) (item : Nat) : (u.endLoad status item).rom = u.rom := rfl
@[simp] theorem endLoad_sram (u : Ef24) (status : Status) (item : Nat) : (u.endLoad status item).sram = u.sram := rfl
@[simp] theorem endLoad_readData (u : Ef24) (status : Status) (item : Nat) : (u.endLoad status item).readData = u.readData := rfl
@[simp] theorem endLoad_crstLow (u : Ef24) (status : Status) (item : Nat) : (u.endLoad status item).crstLow = u.crstLow := rfl
@[simp] theorem endLoad_windows (u : Ef24) (status : Status) (item : Nat) : (u.endLoad status item).windows = u.windows := rfl
@[simp] theorem endLoad_romPort (u : Ef24) (status : Status) (item : Nat) : (u.endLoad status item).romPort = u.romPort := rfl
@[simp] theorem endLoad_command (u : Ef24) (status : Status) (item : Nat) : (u.endLoad status item).command = u.command := rfl
@[simp] theorem endLoad_actions (u : Ef24) (status : Status) (item : Nat) : (u.endLoad status item).actions = u.actions := rfl
@[simp] theorem endLoad_sound (u : Ef24) (status : Status) (item : Nat) : (u.endLoad status item).sound = u.sound := rfl
@[simp] theorem endLoad_rumble (u : Ef24) (status : Status) (item : Nat) : (u.endLoad status item).rumble = u.rumble := rfl
@[simp] theorem endLoad_save (u : Ef24) (status : Status) (item : Nat) : (u.endLoad status item).save = u.save := rfl
@[simp] theorem endLoad_calendar (u : Ef24) (status : Status) (item : Nat) : (u.endLoad status item).calendar = u.calendar := rfl
@[simp] theorem endLoad_schedule (u : Ef24) (status : Status) (item : Nat) : (u.endLoad status item).schedule = u.schedule := rfl
@[simp] theorem endLoad_power (u : Ef24) (status : Status) (item : Nat) : (u.endLoad status item).power = u.power := rfl
@[simp] theorem endLoad_chip (u : Ef24) (status : Status) (item : Nat) : (u.endLoad status item).chip = u.chip := rfl
@[simp] theorem endLoad_free (u : Ef24) (status : Status) (item : Nat) : (u.endLoad status item).free = u.free := rfl

/-! `setSupply` -/

@[simp] theorem setSupply_romCode (u : Ef24) (x : Supply) : (u.setSupply x).romCode = u.romCode := rfl
@[simp] theorem setSupply_sramCode (u : Ef24) (x : Supply) : (u.setSupply x).sramCode = u.sramCode := rfl
@[simp] theorem setSupply_rom (u : Ef24) (x : Supply) : (u.setSupply x).rom = u.rom := rfl
@[simp] theorem setSupply_sram (u : Ef24) (x : Supply) : (u.setSupply x).sram = u.sram := rfl
@[simp] theorem setSupply_readData (u : Ef24) (x : Supply) : (u.setSupply x).readData = u.readData := rfl
@[simp] theorem setSupply_crstLow (u : Ef24) (x : Supply) : (u.setSupply x).crstLow = u.crstLow := rfl
@[simp] theorem setSupply_windows (u : Ef24) (x : Supply) : (u.setSupply x).windows = u.windows := rfl
@[simp] theorem setSupply_romPort (u : Ef24) (x : Supply) : (u.setSupply x).romPort = u.romPort := rfl
@[simp] theorem setSupply_command (u : Ef24) (x : Supply) : (u.setSupply x).command = u.command := rfl
@[simp] theorem setSupply_loader (u : Ef24) (x : Supply) : (u.setSupply x).loader = u.loader := rfl
@[simp] theorem setSupply_actions (u : Ef24) (x : Supply) : (u.setSupply x).actions = u.actions := rfl
@[simp] theorem setSupply_sound (u : Ef24) (x : Supply) : (u.setSupply x).sound = u.sound := rfl
@[simp] theorem setSupply_rumble (u : Ef24) (x : Supply) : (u.setSupply x).rumble = u.rumble := rfl
@[simp] theorem setSupply_save (u : Ef24) (x : Supply) : (u.setSupply x).save = u.save := rfl
@[simp] theorem setSupply_calendar (u : Ef24) (x : Supply) : (u.setSupply x).calendar = u.calendar := rfl
@[simp] theorem setSupply_schedule (u : Ef24) (x : Supply) : (u.setSupply x).schedule = u.schedule := rfl
@[simp] theorem setSupply_events (u : Ef24) (x : Supply) : (u.setSupply x).events = u.events := rfl
@[simp] theorem setSupply_chip (u : Ef24) (x : Supply) : (u.setSupply x).chip = u.chip := rfl
@[simp] theorem setSupply_free (u : Ef24) (x : Supply) : (u.setSupply x).free = u.free := rfl

/-! `setVcc` -/

@[simp] theorem setVcc_romCode (u : Ef24) (millivolts : Nat) : (u.setVcc millivolts).romCode = u.romCode := rfl
@[simp] theorem setVcc_sramCode (u : Ef24) (millivolts : Nat) : (u.setVcc millivolts).sramCode = u.sramCode := rfl
@[simp] theorem setVcc_rom (u : Ef24) (millivolts : Nat) : (u.setVcc millivolts).rom = u.rom := rfl
@[simp] theorem setVcc_sram (u : Ef24) (millivolts : Nat) : (u.setVcc millivolts).sram = u.sram := rfl
@[simp] theorem setVcc_readData (u : Ef24) (millivolts : Nat) : (u.setVcc millivolts).readData = u.readData := rfl
@[simp] theorem setVcc_crstLow (u : Ef24) (millivolts : Nat) : (u.setVcc millivolts).crstLow = u.crstLow := rfl
@[simp] theorem setVcc_windows (u : Ef24) (millivolts : Nat) : (u.setVcc millivolts).windows = u.windows := rfl
@[simp] theorem setVcc_romPort (u : Ef24) (millivolts : Nat) : (u.setVcc millivolts).romPort = u.romPort := rfl
@[simp] theorem setVcc_command (u : Ef24) (millivolts : Nat) : (u.setVcc millivolts).command = u.command := rfl
@[simp] theorem setVcc_loader (u : Ef24) (millivolts : Nat) : (u.setVcc millivolts).loader = u.loader := rfl
@[simp] theorem setVcc_actions (u : Ef24) (millivolts : Nat) : (u.setVcc millivolts).actions = u.actions := rfl
@[simp] theorem setVcc_sound (u : Ef24) (millivolts : Nat) : (u.setVcc millivolts).sound = u.sound := rfl
@[simp] theorem setVcc_rumble (u : Ef24) (millivolts : Nat) : (u.setVcc millivolts).rumble = u.rumble := rfl
@[simp] theorem setVcc_save (u : Ef24) (millivolts : Nat) : (u.setVcc millivolts).save = u.save := rfl
@[simp] theorem setVcc_calendar (u : Ef24) (millivolts : Nat) : (u.setVcc millivolts).calendar = u.calendar := rfl
@[simp] theorem setVcc_schedule (u : Ef24) (millivolts : Nat) : (u.setVcc millivolts).schedule = u.schedule := rfl
@[simp] theorem setVcc_events (u : Ef24) (millivolts : Nat) : (u.setVcc millivolts).events = u.events := rfl
@[simp] theorem setVcc_chip (u : Ef24) (millivolts : Nat) : (u.setVcc millivolts).chip = u.chip := rfl
@[simp] theorem setVcc_free (u : Ef24) (millivolts : Nat) : (u.setVcc millivolts).free = u.free := rfl

/-! `backupReset` -/

@[simp] theorem backupReset_romCode (u : Ef24) : (u.backupReset).romCode = u.romCode := rfl
@[simp] theorem backupReset_sramCode (u : Ef24) : (u.backupReset).sramCode = u.sramCode := rfl
@[simp] theorem backupReset_rom (u : Ef24) : (u.backupReset).rom = u.rom := rfl
@[simp] theorem backupReset_sram (u : Ef24) : (u.backupReset).sram = u.sram := rfl
@[simp] theorem backupReset_readData (u : Ef24) : (u.backupReset).readData = u.readData := rfl
@[simp] theorem backupReset_crstLow (u : Ef24) : (u.backupReset).crstLow = u.crstLow := rfl
@[simp] theorem backupReset_windows (u : Ef24) : (u.backupReset).windows = u.windows := rfl
@[simp] theorem backupReset_romPort (u : Ef24) : (u.backupReset).romPort = u.romPort := rfl
@[simp] theorem backupReset_command (u : Ef24) : (u.backupReset).command = u.command := rfl
@[simp] theorem backupReset_loader (u : Ef24) : (u.backupReset).loader = u.loader := rfl
@[simp] theorem backupReset_actions (u : Ef24) : (u.backupReset).actions = u.actions := rfl
@[simp] theorem backupReset_sound (u : Ef24) : (u.backupReset).sound = u.sound := rfl
@[simp] theorem backupReset_rumble (u : Ef24) : (u.backupReset).rumble = u.rumble := rfl
@[simp] theorem backupReset_save (u : Ef24) : (u.backupReset).save = u.save := rfl
@[simp] theorem backupReset_events (u : Ef24) : (u.backupReset).events = u.events := rfl
@[simp] theorem backupReset_chip (u : Ef24) : (u.backupReset).chip = u.chip := rfl
@[simp] theorem backupReset_free (u : Ef24) : (u.backupReset).free = u.free := rfl

/-! `loseRetention` -/

@[simp] theorem loseRetention_romCode (u : Ef24) : (u.loseRetention).romCode = u.romCode := rfl
@[simp] theorem loseRetention_sramCode (u : Ef24) : (u.loseRetention).sramCode = u.sramCode := rfl
@[simp] theorem loseRetention_rom (u : Ef24) : (u.loseRetention).rom = u.rom := rfl
@[simp] theorem loseRetention_readData (u : Ef24) : (u.loseRetention).readData = u.readData := rfl
@[simp] theorem loseRetention_crstLow (u : Ef24) : (u.loseRetention).crstLow = u.crstLow := rfl
@[simp] theorem loseRetention_windows (u : Ef24) : (u.loseRetention).windows = u.windows := rfl
@[simp] theorem loseRetention_romPort (u : Ef24) : (u.loseRetention).romPort = u.romPort := rfl
@[simp] theorem loseRetention_command (u : Ef24) : (u.loseRetention).command = u.command := rfl
@[simp] theorem loseRetention_loader (u : Ef24) : (u.loseRetention).loader = u.loader := rfl
@[simp] theorem loseRetention_actions (u : Ef24) : (u.loseRetention).actions = u.actions := rfl
@[simp] theorem loseRetention_sound (u : Ef24) : (u.loseRetention).sound = u.sound := rfl
@[simp] theorem loseRetention_rumble (u : Ef24) : (u.loseRetention).rumble = u.rumble := rfl
@[simp] theorem loseRetention_save (u : Ef24) : (u.loseRetention).save = u.save := rfl
@[simp] theorem loseRetention_calendar (u : Ef24) : (u.loseRetention).calendar = u.calendar := rfl
@[simp] theorem loseRetention_schedule (u : Ef24) : (u.loseRetention).schedule = u.schedule := rfl
@[simp] theorem loseRetention_events (u : Ef24) : (u.loseRetention).events = u.events := rfl
@[simp] theorem loseRetention_chip (u : Ef24) : (u.loseRetention).chip = u.chip := rfl

/-! `holdCore` -/

@[simp] theorem holdCore_romCode (u : Ef24) : (u.holdCore).romCode = u.romCode := rfl
@[simp] theorem holdCore_sramCode (u : Ef24) : (u.holdCore).sramCode = u.sramCode := rfl
@[simp] theorem holdCore_rom (u : Ef24) : (u.holdCore).rom = u.rom := rfl
@[simp] theorem holdCore_sram (u : Ef24) : (u.holdCore).sram = u.sram := rfl
@[simp] theorem holdCore_readData (u : Ef24) : (u.holdCore).readData = u.readData := rfl
@[simp] theorem holdCore_crstLow (u : Ef24) : (u.holdCore).crstLow = u.crstLow := rfl
@[simp] theorem holdCore_schedule (u : Ef24) : (u.holdCore).schedule = u.schedule := rfl
@[simp] theorem holdCore_power (u : Ef24) : (u.holdCore).power = u.power := rfl
@[simp] theorem holdCore_free (u : Ef24) : (u.holdCore).free = u.free := rfl

/-! `losePower` -/

@[simp] theorem losePower_romCode (u : Ef24) : (u.losePower).romCode = u.romCode := rfl
@[simp] theorem losePower_sramCode (u : Ef24) : (u.losePower).sramCode = u.sramCode := rfl
@[simp] theorem losePower_rom (u : Ef24) : (u.losePower).rom = u.rom := rfl
@[simp] theorem losePower_sram (u : Ef24) : (u.losePower).sram = u.sram := rfl
@[simp] theorem losePower_readData (u : Ef24) : (u.losePower).readData = u.readData := rfl
@[simp] theorem losePower_crstLow (u : Ef24) : (u.losePower).crstLow = u.crstLow := rfl
@[simp] theorem losePower_schedule (u : Ef24) : (u.losePower).schedule = u.schedule := rfl
@[simp] theorem losePower_power (u : Ef24) : (u.losePower).power = u.power := rfl
@[simp] theorem losePower_free (u : Ef24) : (u.losePower).free = u.free := rfl
@[simp] theorem losePower_calendar (u : Ef24) : u.losePower.calendar = u.calendar := rfl

/-! `tick` -/

@[simp] theorem tick_romCode (u : Ef24) : (u.tick).romCode = u.romCode := rfl
@[simp] theorem tick_sramCode (u : Ef24) : (u.tick).sramCode = u.sramCode := rfl
@[simp] theorem tick_rom (u : Ef24) : (u.tick).rom = u.rom := rfl
@[simp] theorem tick_sram (u : Ef24) : (u.tick).sram = u.sram := rfl
@[simp] theorem tick_readData (u : Ef24) : (u.tick).readData = u.readData := rfl
@[simp] theorem tick_crstLow (u : Ef24) : (u.tick).crstLow = u.crstLow := rfl
@[simp] theorem tick_windows (u : Ef24) : (u.tick).windows = u.windows := rfl
@[simp] theorem tick_romPort (u : Ef24) : (u.tick).romPort = u.romPort := rfl
@[simp] theorem tick_command (u : Ef24) : (u.tick).command = u.command := rfl
@[simp] theorem tick_loader (u : Ef24) : (u.tick).loader = u.loader := rfl
@[simp] theorem tick_actions (u : Ef24) : (u.tick).actions = u.actions := rfl
@[simp] theorem tick_sound (u : Ef24) : (u.tick).sound = u.sound := rfl
@[simp] theorem tick_save (u : Ef24) : (u.tick).save = u.save := rfl
@[simp] theorem tick_calendar (u : Ef24) : (u.tick).calendar = u.calendar := rfl
@[simp] theorem tick_schedule (u : Ef24) : (u.tick).schedule = u.schedule := rfl
@[simp] theorem tick_events (u : Ef24) : (u.tick).events = u.events := rfl
@[simp] theorem tick_power (u : Ef24) : (u.tick).power = u.power := rfl
@[simp] theorem tick_chip (u : Ef24) : (u.tick).chip = u.chip := rfl
@[simp] theorem tick_free (u : Ef24) : (u.tick).free = u.free := rfl

/-! What the updates write -/

@[simp] theorem post_events (u : Ef24) (kind : EventKind) (index detail : Nat) : (u.post kind index detail).events =
    u.events.take { kind := kind, index := BitVec.ofNat 8 index, detail := word detail, stamp := u.calendar.stamp } := rfl
@[simp] theorem answer_readData (u : Ef24) (w : Word) : (u.answer w).readData = w := rfl
@[simp] theorem takeRomPort_romPort (u : Ef24) : u.takeRomPort.romPort = .console := rfl
@[simp] theorem freeRomPort_romPort (u : Ef24) : u.freeRomPort.romPort = .idle := rfl
@[simp] theorem onSave_save (u : Ef24) (f : Save → Save) : (u.onSave f).save = f u.save := rfl
@[simp] theorem sequence_save (u : Ef24) (q : Sequencer) : (u.sequence q).save = { u.save with sequencer := q } := rfl
@[simp] theorem recover_save (u : Ef24) (stage : RecoveryStage) :
    (u.recover stage).save = { u.save with sequencer := .recovering stage } := rfl
@[simp] theorem setTainted_save (u : Ef24) (k : Nat) (b : Bool) :
    (u.setTainted k b).save = u.save.onSlot k (fun x => { x with tainted := b }) := rfl
@[simp] theorem setBad_save (u : Ef24) (k : Nat) (b : Bool) :
    (u.setBad k b).save = u.save.onSlot k (fun x => { x with bad := b }) := rfl
@[simp] theorem setGuard_save (u : Ef24) (b : Bool) : (u.setGuard b).save = { u.save with guard := b } := rfl
@[simp] theorem copyRecord_save (u : Ef24) (k : Nat) (r : SlotRecord) :
    (u.copyRecord k r).save = u.save.onSlot k (fun x => { x with record := r }) := rfl
@[simp] theorem takeSramPort_save (u : Ef24) : u.takeSramPort.save = { u.save with port := none } := rfl
@[simp] theorem joinFlags_save (u : Ef24) (op : FlagOp) :
    (u.joinFlags op).save = { u.save with flags := u.save.flags ++ [op] } := rfl
@[simp] theorem closeGate_save (u : Ef24) :
    u.closeGate.save = { u.save with buffer := [], flags := [], port := none, guard := false } := rfl
@[simp] theorem drainAll_save (u : Ef24) : u.drainAll.save = { u.save with buffer := [], port := none } := rfl
@[simp] theorem onCalendar_calendar (u : Ef24) (f : Calendar → Calendar) : (u.onCalendar f).calendar = f u.calendar := rfl
@[simp] theorem setSupply_power (u : Ef24) (x : Supply) : (u.setSupply x).power = { u.power with supply := x } := rfl
@[simp] theorem setVcc_power (u : Ef24) (millivolts : Nat) :
    (u.setVcc millivolts).power = { u.power with vcc := millivolts } := rfl
@[simp] theorem endLoad_loader (u : Ef24) (status : Status) (item : Nat) : (u.endLoad status item).loader = none := rfl
@[simp] theorem backupReset_calendar (u : Ef24) : u.backupReset.calendar = Calendar.reset := rfl
@[simp] theorem holdCore_chip (u : Ef24) : u.holdCore.chip = none := rfl
@[simp] theorem holdCore_calendar (u : Ef24) : u.holdCore.calendar = { u.calendar with timerRunning := false } := rfl
@[simp] theorem losePower_chip (u : Ef24) : u.losePower.chip = none := rfl
@[simp] theorem tick_rumble (u : Ef24) : u.tick.rumble = u.rumble.tick := rfl

end Sys2Proof.Machine
end

