-- ==== Sys2Proof/Laws/Conclude.lean ====
section
/-! SUPPORT. What follows at once from a step (`Ef24.conclude`): which fields it touches, and what it establishes. -/

namespace Sys2Proof.Machine

/-! ## What each part touches -/

theorem followCeiling_eq (u : Ef24) :
    u.followCeiling = { u with rumble := { u.rumble with motor := u.followCeiling.rumble.motor } } := by
  unfold Ef24.followCeiling
  split <;> rfl

theorem markOrphan_eq (u : Ef24) : u.markOrphan = { u with romPort := u.markOrphan.romPort } := by
  unfold Ef24.markOrphan
  cases hp : u.romPort with
  | idle => simp
  | console => simp
  | fetching f =>
    dsimp only
    split
    · simp
    · rfl

theorem grantFetch_eq (u : Ef24) : u.grantFetch = { u with romPort := u.grantFetch.romPort } := by
  unfold Ef24.grantFetch
  split <;> rfl

theorem updateRomPort_eq (u : Ef24) : u.updateRomPort = { u with romPort := u.updateRomPort.romPort } := by
  unfold Ef24.updateRomPort
  split
  · rw [grantFetch_eq, markOrphan_eq]
  · rfl

theorem grantSram_eq (u : Ef24) : u.grantSram = { u with save := { u.save with port := u.grantSram.save.port } } := by
  unfold Ef24.grantSram
  split
  · split <;> rfl
  · rfl

/-- What follows at once touches the motor record, Heavy Load and the hold timers, the ROM port and the SRAM port only. -/
theorem conclude_eq (u : Ef24) :
    u.conclude = { u with
      rumble := { u.rumble with motor := u.followCeiling.rumble.motor }
      power := { u.power with heavyLoad := u.followCeiling.rumble.heavyLoad
                              holds := u.followCeiling.judgeSupply.power.holds }
      romPort := u.followCeiling.judgeSupply.updateRomPort.romPort
      save := { u.save with port := u.conclude.save.port } } := by
  unfold Ef24.conclude
  rw [grantSram_eq, updateRomPort_eq]
  show _ = _
  rw [show ∀ v : Ef24, v.judgeSupply =
    { v with power := { v.power with heavyLoad := v.rumble.heavyLoad, holds := v.judgeSupply.power.holds } }
    from fun _ => rfl, followCeiling_eq]

section
variable (u : Ef24)

@[simp] theorem conclude_romCode : u.conclude.romCode = u.romCode := by rw [conclude_eq]
@[simp] theorem conclude_sramCode : u.conclude.sramCode = u.sramCode := by rw [conclude_eq]
@[simp] theorem conclude_rom : u.conclude.rom = u.rom := by rw [conclude_eq]
@[simp] theorem conclude_sram : u.conclude.sram = u.sram := by rw [conclude_eq]
@[simp] theorem conclude_readData : u.conclude.readData = u.readData := by rw [conclude_eq]
@[simp] theorem conclude_crstLow : u.conclude.crstLow = u.crstLow := by rw [conclude_eq]
@[simp] theorem conclude_windows : u.conclude.windows = u.windows := by rw [conclude_eq]
@[simp] theorem conclude_command : u.conclude.command = u.command := by rw [conclude_eq]
@[simp] theorem conclude_loader : u.conclude.loader = u.loader := by rw [conclude_eq]
@[simp] theorem conclude_actions : u.conclude.actions = u.actions := by rw [conclude_eq]
@[simp] theorem conclude_sound : u.conclude.sound = u.sound := by rw [conclude_eq]
@[simp] theorem conclude_calendar : u.conclude.calendar = u.calendar := by rw [conclude_eq]
@[simp] theorem conclude_schedule : u.conclude.schedule = u.schedule := by rw [conclude_eq]
@[simp] theorem conclude_events : u.conclude.events = u.events := by rw [conclude_eq]
@[simp] theorem conclude_chip : u.conclude.chip = u.chip := by rw [conclude_eq]
@[simp] theorem conclude_free : u.conclude.free = u.free := by rw [conclude_eq]
@[simp] theorem conclude_coreRunning : u.conclude.coreRunning = u.coreRunning := by
  unfold Ef24.coreRunning; rw [conclude_chip]
@[simp] theorem conclude_save : u.conclude.save = { u.save with port := u.conclude.save.port } := by
  conv => lhs; rw [conclude_eq]
@[simp] theorem conclude_rumble : u.conclude.rumble = { u.rumble with motor := u.followCeiling.rumble.motor } := by
  conv => lhs; rw [conclude_eq]
@[simp] theorem conclude_supply : u.conclude.power.supply = u.power.supply := by rw [conclude_eq]
@[simp] theorem conclude_vcc : u.conclude.power.vcc = u.power.vcc := by rw [conclude_eq]
@[simp] theorem conclude_vbat : u.conclude.power.vbat = u.power.vbat := by rw [conclude_eq]
@[simp] theorem conclude_coinLow : u.conclude.power.coinLow = u.power.coinLow := by rw [conclude_eq]
@[simp] theorem conclude_retained : u.conclude.power.retained = u.power.retained := by rw [conclude_eq]
@[simp] theorem conclude_gateOpen : u.conclude.gateOpen = u.gateOpen := by unfold Ef24.gateOpen; rw [conclude_supply]
@[simp] theorem conclude_ceiling : u.conclude.ceiling = u.ceiling := by
  unfold Ef24.ceiling; rw [conclude_rumble, conclude_save, conclude_supply]

end

/-! ## What it establishes -/

/-- A motor state's strength is within the ceiling (R94 to R96). -/
theorem motorState_strength_le (state : MotorState) (inHand : Option PatternStep) (ceiling : Nat) :
    state.strength inHand ceiling ≤ ceiling := by
  unfold MotorState.strength
  cases state with
  | stopped => exact Nat.zero_le _
  | kick => exact Nat.min_le_right _ _
  | driving =>
    cases inHand with
    | none => exact Nat.zero_le _
    | some s =>
      show s.effective ceiling ≤ ceiling
      unfold PatternStep.effective
      split
      · exact Nat.min_le_right _ _
      · exact Nat.zero_le _
      · exact Nat.zero_le _
      · exact Nat.zero_le _
  | coasting => exact Nat.zero_le _
  | braking => exact Nat.le_refl _

/-- While the core runs, the drive strength is within the Drive Ceiling (R97). -/
theorem conclude_strength_le {u : Ef24} (h : u.coreRunning = true) : u.conclude.rumble.motor.strength ≤ u.ceiling := by
  rw [conclude_rumble]
  unfold Ef24.followCeiling
  rw [if_pos h]
  exact motorState_strength_le _ _ _

/-- While the core does not run, the Drive keeps its state. -/
theorem conclude_rumble_held {u : Ef24} (h : u.coreRunning = false) : u.conclude.rumble = u.rumble := by
  rw [conclude_rumble]
  unfold Ef24.followCeiling
  rw [if_neg (by simp [h])]

/-- The Power Monitor holds the Heavy Load the Drive gives (R98, R175). -/
theorem conclude_heavyLoad (u : Ef24) : u.conclude.power.heavyLoad = u.conclude.rumble.heavyLoad := by
  rw [conclude_eq]
  show u.followCeiling.rumble.heavyLoad = _
  conv => lhs; rw [followCeiling_eq]

/-- A limit of the motor, made twice, is made once. -/
theorem motor_limit_limit (m : Motor) (s : PatternStep) (ceiling strength : Nat) :
    ({ m.limit s ceiling with strength := strength } : Motor).limit s ceiling =
      { m.limit s ceiling with strength := strength } := by
  unfold Motor.limit
  split
  · split
    · cases h : m.state <;> simp [h, Motor.startKick, Motor.drive]
    · cases h : m.state <;> simp [h, Motor.coast]
  · rfl

/-- Following one ceiling twice is following it once. -/
theorem follow_follow (r : Rumble) (ceiling : Nat) : (r.follow ceiling).follow ceiling = r.follow ceiling := by
  have e : ∀ m, ({ r with motor := m } : Rumble).stepInHand = r.stepInHand := fun _ => rfl
  unfold Rumble.follow
  dsimp only
  rw [e]
  cases r.stepInHand with
  | none => rfl
  | some s => dsimp only; rw [motor_limit_limit]

/-- Which hold timers run does not depend on which ran before. -/
theorem holdRuns_holds (p : Power) (l : List Hold) (h : Hold) : ({ p with holds := l } : Power).holdRuns h = p.holdRuns h := by
  cases h with
  | supply c => cases c <;> rfl
  | cellLow => rfl
  | cellGood => rfl
  | cellLost => rfl

/-- The Power Monitor after a step: Heavy Load as the Drive gives it, and the hold timers that then run. -/
theorem conclude_power (u : Ef24) :
    u.conclude.power = { u.power with heavyLoad := u.followCeiling.rumble.heavyLoad }.updateHolds := by
  have e : u.conclude.power = { u.followCeiling.power with heavyLoad := u.followCeiling.rumble.heavyLoad }.updateHolds := by
    unfold Ef24.conclude
    rw [grantSram_eq, updateRomPort_eq]
    rfl
  rw [e, followCeiling_eq]

/-- A hold timer runs after a step exactly when its condition holds (R174, R184, R185). -/
theorem mem_conclude_holds (u : Ef24) (h : Hold) : h ∈ u.conclude.power.holds ↔ u.conclude.power.holdRuns h = true := by
  have all : h ∈ allHolds := by
    cases h with
    | supply c => cases c <;> simp [allHolds]
    | cellLow => simp [allHolds]
    | cellGood => simp [allHolds]
    | cellLost => simp [allHolds]
  rw [conclude_power]
  unfold Power.updateHolds
  rw [holdRuns_holds, List.mem_filter]
  exact ⟨fun x => x.2, fun x => ⟨all, x⟩⟩

/-- A hold timer that runs after a step has its condition (R174, R184, R185). -/
theorem conclude_holds {u : Ef24} {h : Hold} (hm : h ∈ u.conclude.power.holds) : u.conclude.power.holdRuns h = true :=
  (mem_conclude_holds u h).mp hm

/-- While the core runs, the Drive follows the Drive Ceiling (R97). -/
theorem conclude_rumble_follow {u : Ef24} (h : u.coreRunning = true) : u.conclude.rumble = u.rumble.follow u.ceiling := by
  rw [conclude_rumble]
  unfold Ef24.followCeiling
  rw [if_pos h]
  rfl

theorem markOrphan_held (u : Ef24) (r : Rumble) (p : Power) :
    ({ u with rumble := r, power := p } : Ef24).markOrphan = { u.markOrphan with rumble := r, power := p } := by
  have hq : ∀ q, ({ u with rumble := r, power := p } : Ef24).holdsRequest q = u.holdsRequest q := by
    intro q; cases q <;> rfl
  unfold Ef24.markOrphan
  simp only [hq]
  split
  · split <;> rfl
  · rfl
  · rfl

theorem grantFetch_held (u : Ef24) (r : Rumble) (p : Power) :
    ({ u with rumble := r, power := p } : Ef24).grantFetch = { u.grantFetch with rumble := r, power := p } := by
  have hw : ({ u with rumble := r, power := p } : Ef24).fetchWinner = u.fetchWinner := rfl
  unfold Ef24.grantFetch
  simp only [hw]
  split <;> rfl

/-- The ROM port depends on the Drive and on the Power Monitor in nothing (R26, R27). -/
theorem updateRomPort_held (u : Ef24) (r : Rumble) (p : Power) :
    ({ u with rumble := r, power := p } : Ef24).updateRomPort = { u.updateRomPort with rumble := r, power := p } := by
  have hr : ({ u with rumble := r, power := p } : Ef24).coreRunning = u.coreRunning := rfl
  unfold Ef24.updateRomPort
  rw [hr]
  split
  · rw [markOrphan_held, grantFetch_held]
  · rfl

theorem conclude_parts (u : Ef24) : u.conclude =
    ({ u.updateRomPort with rumble := u.conclude.rumble, power := u.conclude.power } : Ef24).grantSram := by
  have e : u.conclude =
      ({ u with rumble := u.followCeiling.rumble, power := u.conclude.power } : Ef24).updateRomPort.grantSram := by
    rw [conclude_power]
    unfold Ef24.conclude
    rw [show u.followCeiling.judgeSupply = { u.followCeiling with
      power := { u.followCeiling.power with heavyLoad := u.followCeiling.rumble.heavyLoad }.updateHolds } from rfl]
    conv => lhs; rw [followCeiling_eq]
    conv => rhs; rw [followCeiling_eq]
  rw [updateRomPort_held] at e
  rw [conclude_rumble]
  rw [followCeiling_eq] at e
  exact e

/-- The ROM port after a step is what the orphan mark and the arbiter make of it (R26, R27). -/
theorem conclude_romPort (u : Ef24) : u.conclude.romPort = u.updateRomPort.romPort := by
  rw [conclude_parts, grantSram_eq]

/-- Whether a claim stands does not depend on the ROM port, the Drive, or the holds. -/
theorem claimStands_of {u v : Ef24} (hs : v.save = u.save) (hc : v.chip = u.chip) (hp : v.power.supply = u.power.supply)
    (c : Claim) : v.claimStands c = u.claimStands c := by
  cases c <;> simp [Ef24.claimStands, Ef24.gateOpen, Ef24.coreRunning, hs, hc, hp]

/-- The SRAM port after a step: the claim in progress, if it still stands, else the one that wins (R110). -/
theorem conclude_port (u : Ef24) : u.conclude.save.port =
    match u.save.port with
    | some c => if u.claimStands c then some c else u.winningClaim
    | none => u.winningClaim := by
  have grant : ∀ v : Ef24, v.grantSram.save.port =
      match v.save.port with
      | some c => if v.claimStands c then some c else v.winningClaim
      | none => v.winningClaim := by
    intro v
    unfold Ef24.grantSram
    cases h : v.save.port with
    | none => rfl
    | some c => dsimp only; split <;> simp_all [Ef24.onSave]
  have stands : ∀ c, ({ u.updateRomPort with rumble := u.conclude.rumble, power := u.conclude.power } : Ef24).claimStands c =
      u.claimStands c := by
    rw [updateRomPort_eq]
    exact claimStands_of rfl rfl (conclude_supply u)
  rw [conclude_parts, grant]
  unfold Ef24.winningClaim
  simp only [stands]
  rw [updateRomPort_eq]

/-- With the gate closed no internal SRAM access is in progress (R123). -/
theorem conclude_port_closed {u : Ef24} (h : u.gateOpen = false) : u.conclude.save.port = none := by
  have hc : ∀ v : Ef24, v.gateOpen = false → ∀ c, v.claimStands c = false := by
    intro v hv c; cases c <;> simp [Ef24.claimStands, hv]
  have hw : ∀ v : Ef24, v.gateOpen = false → v.grantSram.save.port = none := by
    intro v hv
    have e : v.winningClaim = none := by
      unfold Ef24.winningClaim
      simp [hc v hv]
    unfold Ef24.grantSram
    split
    · rw [if_neg (by simp [hc v hv])]; exact e
    · exact e
  apply hw
  rw [updateRomPort_eq]
  show u.followCeiling.gateOpen = false
  rw [followCeiling_eq]; exact h

end Sys2Proof.Machine
end

