-- ==== Sys2Proof/Laws/Blocks.lean ====
section
/-! SUPPORT. What the composite operations of the blocks touch: posts, rumble, sound, dispatches, firings. Of each, one
equation that names the fields it may change, and one lemma for each field of the chip it leaves. -/

namespace Sys2Proof.Machine

/-! ## Equations -/

theorem postAll_eq (u : Ef24) (ps : List Posting) : u.postAll ps = { u with events := (u.postAll ps).events } := by
  unfold Ef24.postAll
  induction ps generalizing u with
  | nil => rfl
  | cons p ps ih => rw [List.foldl_cons, ih]; rfl

theorem withRumble_eq (u : Ef24) (x : Rumble × List Posting) :
    u.withRumble x = { u with rumble := x.1, events := (u.withRumble x).events } := by
  unfold Ef24.withRumble
  rw [postAll_eq]

theorem submitRumble_eq (u : Ef24) (q : Request) :
    u.submitRumble q = { u with rumble := (u.rumble.submit q u.ceiling).1, events := (u.submitRumble q).events } := by
  unfold Ef24.submitRumble
  dsimp only
  split
  · split <;> rw [withRumble_eq]
  · rw [withRumble_eq]
  · rw [withRumble_eq]

theorem perform_eq (u : Ef24) (x : SoundEffect) :
    u.perform x = { u with rumble := (u.perform x).rumble, events := (u.perform x).events } := by
  cases x with
  | post kind index detail => rfl
  | link voice pattern priority =>
    show u.submitRumble _ = { u with rumble := (u.submitRumble _).rumble, events := (u.submitRumble _).events }
    rw [submitRumble_eq]
  | stopped voice =>
    show u.withRumble _ = { u with rumble := (u.withRumble _).rumble, events := (u.withRumble _).events }
    rw [withRumble_eq]

theorem performAll_eq (u : Ef24) (xs : List SoundEffect) :
    xs.foldl Ef24.perform u =
      { u with rumble := (xs.foldl Ef24.perform u).rumble, events := (xs.foldl Ef24.perform u).events } := by
  induction xs generalizing u with
  | nil => rfl
  | cons x xs ih => rw [List.foldl_cons, ih, perform_eq]

theorem withSound_eq (u : Ef24) (x : Sound × List SoundEffect) :
    u.withSound x = { u with sound := x.1, rumble := (u.withSound x).rumble, events := (u.withSound x).events } := by
  unfold Ef24.withSound
  rw [performAll_eq]

theorem refuseCue_eq (u : Ef24) (cue : Nat) (x : PlayResult) :
    u.refuseCue cue x = { u with events := (u.refuseCue cue x).events } := by
  cases x <;> rfl

theorem playCueAction_eq (u : Ef24) (cue : Nat) (r : Option Nat) :
    u.playCueAction cue r = { u with sound := (u.playCueAction cue r).sound, rumble := (u.playCueAction cue r).rumble,
                                     events := (u.playCueAction cue r).events } := by
  unfold Ef24.playCueAction
  rw [refuseCue_eq, withSound_eq]

theorem flagAction_eq (u : Ef24) (action : Nat) (kind : FlagKind) (first count : Nat) :
    u.flagAction action kind first count = { u with
      save := { u.save with flags := (u.flagAction action kind first count).save.flags }
      events := (u.flagAction action kind first count).events } := by
  unfold Ef24.flagAction
  split
  · rfl
  · split <;> rfl

theorem request_eq (u : Ef24) (n : Nat) (e : ActionEntry) (kind : ActionKind) :
    u.request n e kind = { u with
      sound := (u.request n e kind).sound, romPort := (u.request n e kind).romPort, rumble := (u.request n e kind).rumble
      save := { u.save with flags := (u.request n e kind).save.flags }, events := (u.request n e kind).events } := by
  cases kind with
  | invalid => rfl
  | playCue =>
    show (u.playCueAction _ _).updateRomPort = { u with
      sound := ((u.playCueAction _ _).updateRomPort).sound, romPort := ((u.playCueAction _ _).updateRomPort).romPort
      rumble := ((u.playCueAction _ _).updateRomPort).rumble
      save := { u.save with flags := ((u.playCueAction _ _).updateRomPort).save.flags }, events := ((u.playCueAction _ _).updateRomPort).events }
    rw [updateRomPort_eq, playCueAction_eq]
  | stopCue =>
    show (u.withSound _).updateRomPort = { u with
      sound := ((u.withSound _).updateRomPort).sound, romPort := ((u.withSound _).updateRomPort).romPort
      rumble := ((u.withSound _).updateRomPort).rumble
      save := { u.save with flags := ((u.withSound _).updateRomPort).save.flags }, events := ((u.withSound _).updateRomPort).events }
    rw [updateRomPort_eq, withSound_eq]
  | silence =>
    show (u.withSound _).updateRomPort = { u with
      sound := ((u.withSound _).updateRomPort).sound, romPort := ((u.withSound _).updateRomPort).romPort
      rumble := ((u.withSound _).updateRomPort).rumble
      save := { u.save with flags := ((u.withSound _).updateRomPort).save.flags }, events := ((u.withSound _).updateRomPort).events }
    rw [updateRomPort_eq, withSound_eq]
  | rumble =>
    show u.submitRumble _ = { u with
      sound := (u.submitRumble _).sound, romPort := (u.submitRumble _).romPort, rumble := (u.submitRumble _).rumble
      save := { u.save with flags := (u.submitRumble _).save.flags }, events := (u.submitRumble _).events }
    rw [submitRumble_eq]
  | rumbleCut =>
    show u.withRumble _ = { u with
      sound := (u.withRumble _).sound, romPort := (u.withRumble _).romPort, rumble := (u.withRumble _).rumble
      save := { u.save with flags := (u.withRumble _).save.flags }, events := (u.withRumble _).events }
    rw [withRumble_eq]
  | flagSet =>
    show u.flagAction _ _ _ _ = { u with
      sound := (u.flagAction _ _ _ _).sound, romPort := (u.flagAction _ _ _ _).romPort
      rumble := (u.flagAction _ _ _ _).rumble
      save := { u.save with flags := (u.flagAction _ _ _ _).save.flags }, events := (u.flagAction _ _ _ _).events }
    rw [flagAction_eq]
  | flagClear =>
    show u.flagAction _ _ _ _ = { u with
      sound := (u.flagAction _ _ _ _).sound, romPort := (u.flagAction _ _ _ _).romPort
      rumble := (u.flagAction _ _ _ _).rumble
      save := { u.save with flags := (u.flagAction _ _ _ _).save.flags }, events := (u.flagAction _ _ _ _).events }
    rw [flagAction_eq]
  | flagClearRange =>
    show u.flagAction _ _ _ _ = { u with
      sound := (u.flagAction _ _ _ _).sound, romPort := (u.flagAction _ _ _ _).romPort
      rumble := (u.flagAction _ _ _ _).rumble
      save := { u.save with flags := (u.flagAction _ _ _ _).save.flags }, events := (u.flagAction _ _ _ _).events }
    rw [flagAction_eq]
  | post => rfl

theorem visit_eq (u : Ef24) (source : DispatchSource) (first n : Nat) (e : ActionEntry) (kind : ActionKind) :
    u.visit source first n e kind = { u with
      sound := (u.visit source first n e kind).sound, romPort := (u.visit source first n e kind).romPort
      rumble := (u.visit source first n e kind).rumble
      save := { u.save with flags := (u.visit source first n e kind).save.flags }
      events := (u.visit source first n e kind).events } := by
  unfold Ef24.visit
  split
  · rfl
  · rw [request_eq]

theorem walk_eq (source : DispatchSource) (first left n : Nat) (u : Ef24) :
    Ef24.walk source first left n u = { u with
      sound := (Ef24.walk source first left n u).sound, romPort := (Ef24.walk source first left n u).romPort
      rumble := (Ef24.walk source first left n u).rumble
      save := { u.save with flags := (Ef24.walk source first left n u).save.flags }
      events := (Ef24.walk source first left n u).events } := by
  induction left generalizing n u with
  | zero => rfl
  | succ left ih =>
    unfold Ef24.walk
    split
    · rfl
    · rfl
    · split
      · rw [visit_eq]
      · rw [ih, visit_eq]

theorem dispatch_eq (u : Ef24) (source : DispatchSource) (first : Nat) :
    u.dispatch source first = { u with
      sound := (u.dispatch source first).sound, romPort := (u.dispatch source first).romPort
      rumble := (u.dispatch source first).rumble
      save := { u.save with flags := (u.dispatch source first).save.flags }
      events := (u.dispatch source first).events } := walk_eq _ _ _ _ _

theorem postWake_eq (u : Ef24) (i : Nat) : u.postWake i = { u with events := (u.postWake i).events } := by
  unfold Ef24.postWake
  split <;> rfl

theorem fire_eq (u : Ef24) (i : Nat) :
    u.fire i = { u with
      sound := (u.fire i).sound, romPort := (u.fire i).romPort
      rumble := (u.fire i).rumble, save := { u.save with flags := (u.fire i).save.flags }
      schedule := (u.fire i).schedule, events := (u.fire i).events } := by
  unfold Ef24.fire
  dsimp only
  split
  · rw [dispatch_eq]; rfl
  · rw [postWake_eq]; rfl
  · rw [postWake_eq]; rfl
  · rfl
  · rfl

theorem fireFold_eq (u : Ef24) (l : List Nat) :
    l.foldl Ef24.fire u = { u with
      sound := (l.foldl Ef24.fire u).sound, romPort := (l.foldl Ef24.fire u).romPort, rumble := (l.foldl Ef24.fire u).rumble
      save := { u.save with flags := (l.foldl Ef24.fire u).save.flags }
      schedule := (l.foldl Ef24.fire u).schedule, events := (l.foldl Ef24.fire u).events } := by
  induction l generalizing u with
  | nil => rfl
  | cons i l ih => rw [List.foldl_cons, ih, fire_eq]

theorem fireAll_eq (u : Ef24) (fires : ScheduleEntry → Bool) :
    u.fireAll fires = { u with
      sound := (u.fireAll fires).sound, romPort := (u.fireAll fires).romPort, rumble := (u.fireAll fires).rumble
      save := { u.save with flags := (u.fireAll fires).save.flags }
      schedule := (u.fireAll fires).schedule, events := (u.fireAll fires).events } := fireFold_eq _ _

theorem deliver_eq (u : Ef24) (i : Nat) :
    u.deliver i = { u with
      sound := (u.deliver i).sound, romPort := (u.deliver i).romPort
      rumble := (u.deliver i).rumble, save := { u.save with flags := (u.deliver i).save.flags }
      schedule := (u.deliver i).schedule, events := (u.deliver i).events } := by
  unfold Ef24.deliver
  split
  · unfold Ef24.setPending Ef24.onEntry; rw [dispatch_eq]
  · rfl

theorem deliverFold_eq (u : Ef24) (l : List Nat) :
    l.foldl Ef24.deliver u = { u with
      sound := (l.foldl Ef24.deliver u).sound, romPort := (l.foldl Ef24.deliver u).romPort
      rumble := (l.foldl Ef24.deliver u).rumble
      save := { u.save with flags := (l.foldl Ef24.deliver u).save.flags }
      schedule := (l.foldl Ef24.deliver u).schedule, events := (l.foldl Ef24.deliver u).events } := by
  induction l generalizing u with
  | nil => rfl
  | cons i l ih => rw [List.foldl_cons, ih, deliver_eq]

theorem deliverAll_eq (u : Ef24) :
    u.deliverAll = { u with
      sound := u.deliverAll.sound, romPort := u.deliverAll.romPort, rumble := u.deliverAll.rumble
      save := { u.save with flags := u.deliverAll.save.flags }
      schedule := u.deliverAll.schedule, events := u.deliverAll.events } := by
  unfold Ef24.deliverAll
  exact deliverFold_eq _ _

theorem clearFold_eq (u : Ef24) (l : List Nat) :
    l.foldl (fun v i => v.setPending i false) u =
      { u with schedule := (l.foldl (fun v i => v.setPending i false) u).schedule } := by
  induction l generalizing u with
  | nil => rfl
  | cons i l ih => rw [List.foldl_cons, ih]; rfl

theorem clearPending_eq (u : Ef24) : u.clearPending = { u with schedule := u.clearPending.schedule } := clearFold_eq _ _

/-- What clearing the Pending marks leaves of the schedule depends on the schedule alone. -/
theorem clearPending_schedule_of {u v : Ef24} (h : u.schedule = v.schedule) :
    u.clearPending.schedule = v.clearPending.schedule := by
  unfold Ef24.clearPending
  induction entryNumbers generalizing u v with
  | nil => exact h
  | cons i l ih =>
    rw [List.foldl_cons, List.foldl_cons]
    apply ih
    unfold Ef24.setPending Ef24.onEntry Ef24.entry
    rw [h]

/-- What the posts leave in the Event Unit depends on it and on the calendar alone. -/
theorem postAll_events_of {u v : Ef24} (ps : List Posting) (he : u.events = v.events) (hc : u.calendar = v.calendar) :
    (u.postAll ps).events = (v.postAll ps).events := by
  unfold Ef24.postAll
  induction ps generalizing u v with
  | nil => exact he
  | cons p ps ih =>
    rw [List.foldl_cons, List.foldl_cons]
    apply ih
    · unfold Ef24.post; dsimp only; rw [he, hc]
    · exact hc

theorem abortLoad_eq (u : Ef24) : u.abortLoad = { u with loader := u.abortLoad.loader, events := u.abortLoad.events } := by
  unfold Ef24.abortLoad
  split <;> rfl

theorem noteRollover_eq (u : Ef24) :
    u.noteRollover = { u with
      calendar := { u.calendar with unreported := u.noteRollover.calendar.unreported }
      events := u.noteRollover.events } := by
  unfold Ef24.noteRollover
  split <;> rfl

theorem noteSupply_eq (u : Ef24) : u.noteSupply = { u with events := u.noteSupply.events } := by
  unfold Ef24.noteSupply
  split <;> rfl

theorem noteCaughtUp_eq (u : Ef24) : u.noteCaughtUp = { u with events := u.noteCaughtUp.events } := by
  unfold Ef24.noteCaughtUp
  split <;> rfl

/-! ## Fields left -/


/-! `postAll` -/

@[simp] theorem postAll_romCode (u : Ef24) (ps : List Posting) :
    (u.postAll ps).romCode = u.romCode := by rw [postAll_eq]
@[simp] theorem postAll_sramCode (u : Ef24) (ps : List Posting) :
    (u.postAll ps).sramCode = u.sramCode := by rw [postAll_eq]
@[simp] theorem postAll_rom (u : Ef24) (ps : List Posting) :
    (u.postAll ps).rom = u.rom := by rw [postAll_eq]
@[simp] theorem postAll_sram (u : Ef24) (ps : List Posting) :
    (u.postAll ps).sram = u.sram := by rw [postAll_eq]
@[simp] theorem postAll_readData (u : Ef24) (ps : List Posting) :
    (u.postAll ps).readData = u.readData := by rw [postAll_eq]
@[simp] theorem postAll_crstLow (u : Ef24) (ps : List Posting) :
    (u.postAll ps).crstLow = u.crstLow := by rw [postAll_eq]
@[simp] theorem postAll_windows (u : Ef24) (ps : List Posting) :
    (u.postAll ps).windows = u.windows := by rw [postAll_eq]
@[simp] theorem postAll_romPort (u : Ef24) (ps : List Posting) :
    (u.postAll ps).romPort = u.romPort := by rw [postAll_eq]
@[simp] theorem postAll_command (u : Ef24) (ps : List Posting) :
    (u.postAll ps).command = u.command := by rw [postAll_eq]
@[simp] theorem postAll_loader (u : Ef24) (ps : List Posting) :
    (u.postAll ps).loader = u.loader := by rw [postAll_eq]
@[simp] theorem postAll_actions (u : Ef24) (ps : List Posting) :
    (u.postAll ps).actions = u.actions := by rw [postAll_eq]
@[simp] theorem postAll_sound (u : Ef24) (ps : List Posting) :
    (u.postAll ps).sound = u.sound := by rw [postAll_eq]
@[simp] theorem postAll_rumble (u : Ef24) (ps : List Posting) :
    (u.postAll ps).rumble = u.rumble := by rw [postAll_eq]
@[simp] theorem postAll_save (u : Ef24) (ps : List Posting) :
    (u.postAll ps).save = u.save := by rw [postAll_eq]
@[simp] theorem postAll_calendar (u : Ef24) (ps : List Posting) :
    (u.postAll ps).calendar = u.calendar := by rw [postAll_eq]
@[simp] theorem postAll_schedule (u : Ef24) (ps : List Posting) :
    (u.postAll ps).schedule = u.schedule := by rw [postAll_eq]
@[simp] theorem postAll_power (u : Ef24) (ps : List Posting) :
    (u.postAll ps).power = u.power := by rw [postAll_eq]
@[simp] theorem postAll_chip (u : Ef24) (ps : List Posting) :
    (u.postAll ps).chip = u.chip := by rw [postAll_eq]
@[simp] theorem postAll_free (u : Ef24) (ps : List Posting) :
    (u.postAll ps).free = u.free := by rw [postAll_eq]

/-! `withRumble` -/

@[simp] theorem withRumble_romCode (u : Ef24) (x : Rumble × List Posting) :
    (u.withRumble x).romCode = u.romCode := by rw [withRumble_eq]
@[simp] theorem withRumble_sramCode (u : Ef24) (x : Rumble × List Posting) :
    (u.withRumble x).sramCode = u.sramCode := by rw [withRumble_eq]
@[simp] theorem withRumble_rom (u : Ef24) (x : Rumble × List Posting) :
    (u.withRumble x).rom = u.rom := by rw [withRumble_eq]
@[simp] theorem withRumble_sram (u : Ef24) (x : Rumble × List Posting) :
    (u.withRumble x).sram = u.sram := by rw [withRumble_eq]
@[simp] theorem withRumble_readData (u : Ef24) (x : Rumble × List Posting) :
    (u.withRumble x).readData = u.readData := by rw [withRumble_eq]
@[simp] theorem withRumble_crstLow (u : Ef24) (x : Rumble × List Posting) :
    (u.withRumble x).crstLow = u.crstLow := by rw [withRumble_eq]
@[simp] theorem withRumble_windows (u : Ef24) (x : Rumble × List Posting) :
    (u.withRumble x).windows = u.windows := by rw [withRumble_eq]
@[simp] theorem withRumble_romPort (u : Ef24) (x : Rumble × List Posting) :
    (u.withRumble x).romPort = u.romPort := by rw [withRumble_eq]
@[simp] theorem withRumble_command (u : Ef24) (x : Rumble × List Posting) :
    (u.withRumble x).command = u.command := by rw [withRumble_eq]
@[simp] theorem withRumble_loader (u : Ef24) (x : Rumble × List Posting) :
    (u.withRumble x).loader = u.loader := by rw [withRumble_eq]
@[simp] theorem withRumble_actions (u : Ef24) (x : Rumble × List Posting) :
    (u.withRumble x).actions = u.actions := by rw [withRumble_eq]
@[simp] theorem withRumble_sound (u : Ef24) (x : Rumble × List Posting) :
    (u.withRumble x).sound = u.sound := by rw [withRumble_eq]
@[simp] theorem withRumble_save (u : Ef24) (x : Rumble × List Posting) :
    (u.withRumble x).save = u.save := by rw [withRumble_eq]
@[simp] theorem withRumble_calendar (u : Ef24) (x : Rumble × List Posting) :
    (u.withRumble x).calendar = u.calendar := by rw [withRumble_eq]
@[simp] theorem withRumble_schedule (u : Ef24) (x : Rumble × List Posting) :
    (u.withRumble x).schedule = u.schedule := by rw [withRumble_eq]
@[simp] theorem withRumble_power (u : Ef24) (x : Rumble × List Posting) :
    (u.withRumble x).power = u.power := by rw [withRumble_eq]
@[simp] theorem withRumble_chip (u : Ef24) (x : Rumble × List Posting) :
    (u.withRumble x).chip = u.chip := by rw [withRumble_eq]
@[simp] theorem withRumble_free (u : Ef24) (x : Rumble × List Posting) :
    (u.withRumble x).free = u.free := by rw [withRumble_eq]

/-! `submitRumble` -/

@[simp] theorem submitRumble_romCode (u : Ef24) (q : Request) :
    (u.submitRumble q).romCode = u.romCode := by rw [submitRumble_eq]
@[simp] theorem submitRumble_sramCode (u : Ef24) (q : Request) :
    (u.submitRumble q).sramCode = u.sramCode := by rw [submitRumble_eq]
@[simp] theorem submitRumble_rom (u : Ef24) (q : Request) :
    (u.submitRumble q).rom = u.rom := by rw [submitRumble_eq]
@[simp] theorem submitRumble_sram (u : Ef24) (q : Request) :
    (u.submitRumble q).sram = u.sram := by rw [submitRumble_eq]
@[simp] theorem submitRumble_readData (u : Ef24) (q : Request) :
    (u.submitRumble q).readData = u.readData := by rw [submitRumble_eq]
@[simp] theorem submitRumble_crstLow (u : Ef24) (q : Request) :
    (u.submitRumble q).crstLow = u.crstLow := by rw [submitRumble_eq]
@[simp] theorem submitRumble_windows (u : Ef24) (q : Request) :
    (u.submitRumble q).windows = u.windows := by rw [submitRumble_eq]
@[simp] theorem submitRumble_romPort (u : Ef24) (q : Request) :
    (u.submitRumble q).romPort = u.romPort := by rw [submitRumble_eq]
@[simp] theorem submitRumble_command (u : Ef24) (q : Request) :
    (u.submitRumble q).command = u.command := by rw [submitRumble_eq]
@[simp] theorem submitRumble_loader (u : Ef24) (q : Request) :
    (u.submitRumble q).loader = u.loader := by rw [submitRumble_eq]
@[simp] theorem submitRumble_actions (u : Ef24) (q : Request) :
    (u.submitRumble q).actions = u.actions := by rw [submitRumble_eq]
@[simp] theorem submitRumble_sound (u : Ef24) (q : Request) :
    (u.submitRumble q).sound = u.sound := by rw [submitRumble_eq]
@[simp] theorem submitRumble_save (u : Ef24) (q : Request) :
    (u.submitRumble q).save = u.save := by rw [submitRumble_eq]
@[simp] theorem submitRumble_calendar (u : Ef24) (q : Request) :
    (u.submitRumble q).calendar = u.calendar := by rw [submitRumble_eq]
@[simp] theorem submitRumble_schedule (u : Ef24) (q : Request) :
    (u.submitRumble q).schedule = u.schedule := by rw [submitRumble_eq]
@[simp] theorem submitRumble_power (u : Ef24) (q : Request) :
    (u.submitRumble q).power = u.power := by rw [submitRumble_eq]
@[simp] theorem submitRumble_chip (u : Ef24) (q : Request) :
    (u.submitRumble q).chip = u.chip := by rw [submitRumble_eq]
@[simp] theorem submitRumble_free (u : Ef24) (q : Request) :
    (u.submitRumble q).free = u.free := by rw [submitRumble_eq]

/-! `withSound` -/

@[simp] theorem withSound_romCode (u : Ef24) (x : Sound × List SoundEffect) :
    (u.withSound x).romCode = u.romCode := by rw [withSound_eq]
@[simp] theorem withSound_sramCode (u : Ef24) (x : Sound × List SoundEffect) :
    (u.withSound x).sramCode = u.sramCode := by rw [withSound_eq]
@[simp] theorem withSound_rom (u : Ef24) (x : Sound × List SoundEffect) :
    (u.withSound x).rom = u.rom := by rw [withSound_eq]
@[simp] theorem withSound_sram (u : Ef24) (x : Sound × List SoundEffect) :
    (u.withSound x).sram = u.sram := by rw [withSound_eq]
@[simp] theorem withSound_readData (u : Ef24) (x : Sound × List SoundEffect) :
    (u.withSound x).readData = u.readData := by rw [withSound_eq]
@[simp] theorem withSound_crstLow (u : Ef24) (x : Sound × List SoundEffect) :
    (u.withSound x).crstLow = u.crstLow := by rw [withSound_eq]
@[simp] theorem withSound_windows (u : Ef24) (x : Sound × List SoundEffect) :
    (u.withSound x).windows = u.windows := by rw [withSound_eq]
@[simp] theorem withSound_romPort (u : Ef24) (x : Sound × List SoundEffect) :
    (u.withSound x).romPort = u.romPort := by rw [withSound_eq]
@[simp] theorem withSound_command (u : Ef24) (x : Sound × List SoundEffect) :
    (u.withSound x).command = u.command := by rw [withSound_eq]
@[simp] theorem withSound_loader (u : Ef24) (x : Sound × List SoundEffect) :
    (u.withSound x).loader = u.loader := by rw [withSound_eq]
@[simp] theorem withSound_actions (u : Ef24) (x : Sound × List SoundEffect) :
    (u.withSound x).actions = u.actions := by rw [withSound_eq]
@[simp] theorem withSound_save (u : Ef24) (x : Sound × List SoundEffect) :
    (u.withSound x).save = u.save := by rw [withSound_eq]
@[simp] theorem withSound_calendar (u : Ef24) (x : Sound × List SoundEffect) :
    (u.withSound x).calendar = u.calendar := by rw [withSound_eq]
@[simp] theorem withSound_schedule (u : Ef24) (x : Sound × List SoundEffect) :
    (u.withSound x).schedule = u.schedule := by rw [withSound_eq]
@[simp] theorem withSound_power (u : Ef24) (x : Sound × List SoundEffect) :
    (u.withSound x).power = u.power := by rw [withSound_eq]
@[simp] theorem withSound_chip (u : Ef24) (x : Sound × List SoundEffect) :
    (u.withSound x).chip = u.chip := by rw [withSound_eq]
@[simp] theorem withSound_free (u : Ef24) (x : Sound × List SoundEffect) :
    (u.withSound x).free = u.free := by rw [withSound_eq]

/-! `playCueAction` -/

@[simp] theorem playCueAction_romCode (u : Ef24) (cue : Nat) (r : Option Nat) :
    (u.playCueAction cue r).romCode = u.romCode := by rw [playCueAction_eq]
@[simp] theorem playCueAction_sramCode (u : Ef24) (cue : Nat) (r : Option Nat) :
    (u.playCueAction cue r).sramCode = u.sramCode := by rw [playCueAction_eq]
@[simp] theorem playCueAction_rom (u : Ef24) (cue : Nat) (r : Option Nat) :
    (u.playCueAction cue r).rom = u.rom := by rw [playCueAction_eq]
@[simp] theorem playCueAction_sram (u : Ef24) (cue : Nat) (r : Option Nat) :
    (u.playCueAction cue r).sram = u.sram := by rw [playCueAction_eq]
@[simp] theorem playCueAction_readData (u : Ef24) (cue : Nat) (r : Option Nat) :
    (u.playCueAction cue r).readData = u.readData := by rw [playCueAction_eq]
@[simp] theorem playCueAction_crstLow (u : Ef24) (cue : Nat) (r : Option Nat) :
    (u.playCueAction cue r).crstLow = u.crstLow := by rw [playCueAction_eq]
@[simp] theorem playCueAction_windows (u : Ef24) (cue : Nat) (r : Option Nat) :
    (u.playCueAction cue r).windows = u.windows := by rw [playCueAction_eq]
@[simp] theorem playCueAction_romPort (u : Ef24) (cue : Nat) (r : Option Nat) :
    (u.playCueAction cue r).romPort = u.romPort := by rw [playCueAction_eq]
@[simp] theorem playCueAction_command (u : Ef24) (cue : Nat) (r : Option Nat) :
    (u.playCueAction cue r).command = u.command := by rw [playCueAction_eq]
@[simp] theorem playCueAction_loader (u : Ef24) (cue : Nat) (r : Option Nat) :
    (u.playCueAction cue r).loader = u.loader := by rw [playCueAction_eq]
@[simp] theorem playCueAction_actions (u : Ef24) (cue : Nat) (r : Option Nat) :
    (u.playCueAction cue r).actions = u.actions := by rw [playCueAction_eq]
@[simp] theorem playCueAction_save (u : Ef24) (cue : Nat) (r : Option Nat) :
    (u.playCueAction cue r).save = u.save := by rw [playCueAction_eq]
@[simp] theorem playCueAction_calendar (u : Ef24) (cue : Nat) (r : Option Nat) :
    (u.playCueAction cue r).calendar = u.calendar := by rw [playCueAction_eq]
@[simp] theorem playCueAction_schedule (u : Ef24) (cue : Nat) (r : Option Nat) :
    (u.playCueAction cue r).schedule = u.schedule := by rw [playCueAction_eq]
@[simp] theorem playCueAction_power (u : Ef24) (cue : Nat) (r : Option Nat) :
    (u.playCueAction cue r).power = u.power := by rw [playCueAction_eq]
@[simp] theorem playCueAction_chip (u : Ef24) (cue : Nat) (r : Option Nat) :
    (u.playCueAction cue r).chip = u.chip := by rw [playCueAction_eq]
@[simp] theorem playCueAction_free (u : Ef24) (cue : Nat) (r : Option Nat) :
    (u.playCueAction cue r).free = u.free := by rw [playCueAction_eq]

/-! `dispatch` -/

@[simp] theorem dispatch_romCode (u : Ef24) (source : DispatchSource) (first : Nat) :
    (u.dispatch source first).romCode = u.romCode := by rw [dispatch_eq]
@[simp] theorem dispatch_sramCode (u : Ef24) (source : DispatchSource) (first : Nat) :
    (u.dispatch source first).sramCode = u.sramCode := by rw [dispatch_eq]
@[simp] theorem dispatch_rom (u : Ef24) (source : DispatchSource) (first : Nat) :
    (u.dispatch source first).rom = u.rom := by rw [dispatch_eq]
@[simp] theorem dispatch_sram (u : Ef24) (source : DispatchSource) (first : Nat) :
    (u.dispatch source first).sram = u.sram := by rw [dispatch_eq]
@[simp] theorem dispatch_readData (u : Ef24) (source : DispatchSource) (first : Nat) :
    (u.dispatch source first).readData = u.readData := by rw [dispatch_eq]
@[simp] theorem dispatch_crstLow (u : Ef24) (source : DispatchSource) (first : Nat) :
    (u.dispatch source first).crstLow = u.crstLow := by rw [dispatch_eq]
@[simp] theorem dispatch_windows (u : Ef24) (source : DispatchSource) (first : Nat) :
    (u.dispatch source first).windows = u.windows := by rw [dispatch_eq]
@[simp] theorem dispatch_command (u : Ef24) (source : DispatchSource) (first : Nat) :
    (u.dispatch source first).command = u.command := by rw [dispatch_eq]
@[simp] theorem dispatch_loader (u : Ef24) (source : DispatchSource) (first : Nat) :
    (u.dispatch source first).loader = u.loader := by rw [dispatch_eq]
@[simp] theorem dispatch_actions (u : Ef24) (source : DispatchSource) (first : Nat) :
    (u.dispatch source first).actions = u.actions := by rw [dispatch_eq]
@[simp] theorem dispatch_calendar (u : Ef24) (source : DispatchSource) (first : Nat) :
    (u.dispatch source first).calendar = u.calendar := by rw [dispatch_eq]
@[simp] theorem dispatch_schedule (u : Ef24) (source : DispatchSource) (first : Nat) :
    (u.dispatch source first).schedule = u.schedule := by rw [dispatch_eq]
@[simp] theorem dispatch_power (u : Ef24) (source : DispatchSource) (first : Nat) :
    (u.dispatch source first).power = u.power := by rw [dispatch_eq]
@[simp] theorem dispatch_chip (u : Ef24) (source : DispatchSource) (first : Nat) :
    (u.dispatch source first).chip = u.chip := by rw [dispatch_eq]
@[simp] theorem dispatch_free (u : Ef24) (source : DispatchSource) (first : Nat) :
    (u.dispatch source first).free = u.free := by rw [dispatch_eq]

/-! `fireAll` -/

@[simp] theorem fireAll_romCode (u : Ef24) (fires : ScheduleEntry → Bool) :
    (u.fireAll fires).romCode = u.romCode := by rw [fireAll_eq]
@[simp] theorem fireAll_sramCode (u : Ef24) (fires : ScheduleEntry → Bool) :
    (u.fireAll fires).sramCode = u.sramCode := by rw [fireAll_eq]
@[simp] theorem fireAll_rom (u : Ef24) (fires : ScheduleEntry → Bool) :
    (u.fireAll fires).rom = u.rom := by rw [fireAll_eq]
@[simp] theorem fireAll_sram (u : Ef24) (fires : ScheduleEntry → Bool) :
    (u.fireAll fires).sram = u.sram := by rw [fireAll_eq]
@[simp] theorem fireAll_readData (u : Ef24) (fires : ScheduleEntry → Bool) :
    (u.fireAll fires).readData = u.readData := by rw [fireAll_eq]
@[simp] theorem fireAll_crstLow (u : Ef24) (fires : ScheduleEntry → Bool) :
    (u.fireAll fires).crstLow = u.crstLow := by rw [fireAll_eq]
@[simp] theorem fireAll_windows (u : Ef24) (fires : ScheduleEntry → Bool) :
    (u.fireAll fires).windows = u.windows := by rw [fireAll_eq]
@[simp] theorem fireAll_command (u : Ef24) (fires : ScheduleEntry → Bool) :
    (u.fireAll fires).command = u.command := by rw [fireAll_eq]
@[simp] theorem fireAll_loader (u : Ef24) (fires : ScheduleEntry → Bool) :
    (u.fireAll fires).loader = u.loader := by rw [fireAll_eq]
@[simp] theorem fireAll_actions (u : Ef24) (fires : ScheduleEntry → Bool) :
    (u.fireAll fires).actions = u.actions := by rw [fireAll_eq]
@[simp] theorem fireAll_calendar (u : Ef24) (fires : ScheduleEntry → Bool) :
    (u.fireAll fires).calendar = u.calendar := by rw [fireAll_eq]
@[simp] theorem fireAll_power (u : Ef24) (fires : ScheduleEntry → Bool) :
    (u.fireAll fires).power = u.power := by rw [fireAll_eq]
@[simp] theorem fireAll_chip (u : Ef24) (fires : ScheduleEntry → Bool) :
    (u.fireAll fires).chip = u.chip := by rw [fireAll_eq]
@[simp] theorem fireAll_free (u : Ef24) (fires : ScheduleEntry → Bool) :
    (u.fireAll fires).free = u.free := by rw [fireAll_eq]

/-! `deliverAll` -/

@[simp] theorem deliverAll_romCode (u : Ef24) :
    (u.deliverAll).romCode = u.romCode := by rw [deliverAll_eq]
@[simp] theorem deliverAll_sramCode (u : Ef24) :
    (u.deliverAll).sramCode = u.sramCode := by rw [deliverAll_eq]
@[simp] theorem deliverAll_rom (u : Ef24) :
    (u.deliverAll).rom = u.rom := by rw [deliverAll_eq]
@[simp] theorem deliverAll_sram (u : Ef24) :
    (u.deliverAll).sram = u.sram := by rw [deliverAll_eq]
@[simp] theorem deliverAll_readData (u : Ef24) :
    (u.deliverAll).readData = u.readData := by rw [deliverAll_eq]
@[simp] theorem deliverAll_crstLow (u : Ef24) :
    (u.deliverAll).crstLow = u.crstLow := by rw [deliverAll_eq]
@[simp] theorem deliverAll_windows (u : Ef24) :
    (u.deliverAll).windows = u.windows := by rw [deliverAll_eq]
@[simp] theorem deliverAll_command (u : Ef24) :
    (u.deliverAll).command = u.command := by rw [deliverAll_eq]
@[simp] theorem deliverAll_loader (u : Ef24) :
    (u.deliverAll).loader = u.loader := by rw [deliverAll_eq]
@[simp] theorem deliverAll_actions (u : Ef24) :
    (u.deliverAll).actions = u.actions := by rw [deliverAll_eq]
@[simp] theorem deliverAll_calendar (u : Ef24) :
    (u.deliverAll).calendar = u.calendar := by rw [deliverAll_eq]
@[simp] theorem deliverAll_power (u : Ef24) :
    (u.deliverAll).power = u.power := by rw [deliverAll_eq]
@[simp] theorem deliverAll_chip (u : Ef24) :
    (u.deliverAll).chip = u.chip := by rw [deliverAll_eq]
@[simp] theorem deliverAll_free (u : Ef24) :
    (u.deliverAll).free = u.free := by rw [deliverAll_eq]

/-! `clearPending` -/

@[simp] theorem clearPending_romCode (u : Ef24) :
    (u.clearPending).romCode = u.romCode := by rw [clearPending_eq]
@[simp] theorem clearPending_sramCode (u : Ef24) :
    (u.clearPending).sramCode = u.sramCode := by rw [clearPending_eq]
@[simp] theorem clearPending_rom (u : Ef24) :
    (u.clearPending).rom = u.rom := by rw [clearPending_eq]
@[simp] theorem clearPending_sram (u : Ef24) :
    (u.clearPending).sram = u.sram := by rw [clearPending_eq]
@[simp] theorem clearPending_readData (u : Ef24) :
    (u.clearPending).readData = u.readData := by rw [clearPending_eq]
@[simp] theorem clearPending_crstLow (u : Ef24) :
    (u.clearPending).crstLow = u.crstLow := by rw [clearPending_eq]
@[simp] theorem clearPending_windows (u : Ef24) :
    (u.clearPending).windows = u.windows := by rw [clearPending_eq]
@[simp] theorem clearPending_romPort (u : Ef24) :
    (u.clearPending).romPort = u.romPort := by rw [clearPending_eq]
@[simp] theorem clearPending_command (u : Ef24) :
    (u.clearPending).command = u.command := by rw [clearPending_eq]
@[simp] theorem clearPending_loader (u : Ef24) :
    (u.clearPending).loader = u.loader := by rw [clearPending_eq]
@[simp] theorem clearPending_actions (u : Ef24) :
    (u.clearPending).actions = u.actions := by rw [clearPending_eq]
@[simp] theorem clearPending_sound (u : Ef24) :
    (u.clearPending).sound = u.sound := by rw [clearPending_eq]
@[simp] theorem clearPending_rumble (u : Ef24) :
    (u.clearPending).rumble = u.rumble := by rw [clearPending_eq]
@[simp] theorem clearPending_save (u : Ef24) :
    (u.clearPending).save = u.save := by rw [clearPending_eq]
@[simp] theorem clearPending_calendar (u : Ef24) :
    (u.clearPending).calendar = u.calendar := by rw [clearPending_eq]
@[simp] theorem clearPending_events (u : Ef24) :
    (u.clearPending).events = u.events := by rw [clearPending_eq]
@[simp] theorem clearPending_power (u : Ef24) :
    (u.clearPending).power = u.power := by rw [clearPending_eq]
@[simp] theorem clearPending_chip (u : Ef24) :
    (u.clearPending).chip = u.chip := by rw [clearPending_eq]
@[simp] theorem clearPending_free (u : Ef24) :
    (u.clearPending).free = u.free := by rw [clearPending_eq]

/-! `abortLoad` -/

@[simp] theorem abortLoad_romCode (u : Ef24) :
    (u.abortLoad).romCode = u.romCode := by rw [abortLoad_eq]
@[simp] theorem abortLoad_sramCode (u : Ef24) :
    (u.abortLoad).sramCode = u.sramCode := by rw [abortLoad_eq]
@[simp] theorem abortLoad_rom (u : Ef24) :
    (u.abortLoad).rom = u.rom := by rw [abortLoad_eq]
@[simp] theorem abortLoad_sram (u : Ef24) :
    (u.abortLoad).sram = u.sram := by rw [abortLoad_eq]
@[simp] theorem abortLoad_readData (u : Ef24) :
    (u.abortLoad).readData = u.readData := by rw [abortLoad_eq]
@[simp] theorem abortLoad_crstLow (u : Ef24) :
    (u.abortLoad).crstLow = u.crstLow := by rw [abortLoad_eq]
@[simp] theorem abortLoad_windows (u : Ef24) :
    (u.abortLoad).windows = u.windows := by rw [abortLoad_eq]
@[simp] theorem abortLoad_romPort (u : Ef24) :
    (u.abortLoad).romPort = u.romPort := by rw [abortLoad_eq]
@[simp] theorem abortLoad_command (u : Ef24) :
    (u.abortLoad).command = u.command := by rw [abortLoad_eq]
@[simp] theorem abortLoad_actions (u : Ef24) :
    (u.abortLoad).actions = u.actions := by rw [abortLoad_eq]
@[simp] theorem abortLoad_sound (u : Ef24) :
    (u.abortLoad).sound = u.sound := by rw [abortLoad_eq]
@[simp] theorem abortLoad_rumble (u : Ef24) :
    (u.abortLoad).rumble = u.rumble := by rw [abortLoad_eq]
@[simp] theorem abortLoad_save (u : Ef24) :
    (u.abortLoad).save = u.save := by rw [abortLoad_eq]
@[simp] theorem abortLoad_calendar (u : Ef24) :
    (u.abortLoad).calendar = u.calendar := by rw [abortLoad_eq]
@[simp] theorem abortLoad_schedule (u : Ef24) :
    (u.abortLoad).schedule = u.schedule := by rw [abortLoad_eq]
@[simp] theorem abortLoad_power (u : Ef24) :
    (u.abortLoad).power = u.power := by rw [abortLoad_eq]
@[simp] theorem abortLoad_chip (u : Ef24) :
    (u.abortLoad).chip = u.chip := by rw [abortLoad_eq]
@[simp] theorem abortLoad_free (u : Ef24) :
    (u.abortLoad).free = u.free := by rw [abortLoad_eq]

/-! `noteRollover` -/

@[simp] theorem noteRollover_romCode (u : Ef24) :
    (u.noteRollover).romCode = u.romCode := by rw [noteRollover_eq]
@[simp] theorem noteRollover_sramCode (u : Ef24) :
    (u.noteRollover).sramCode = u.sramCode := by rw [noteRollover_eq]
@[simp] theorem noteRollover_rom (u : Ef24) :
    (u.noteRollover).rom = u.rom := by rw [noteRollover_eq]
@[simp] theorem noteRollover_sram (u : Ef24) :
    (u.noteRollover).sram = u.sram := by rw [noteRollover_eq]
@[simp] theorem noteRollover_readData (u : Ef24) :
    (u.noteRollover).readData = u.readData := by rw [noteRollover_eq]
@[simp] theorem noteRollover_crstLow (u : Ef24) :
    (u.noteRollover).crstLow = u.crstLow := by rw [noteRollover_eq]
@[simp] theorem noteRollover_windows (u : Ef24) :
    (u.noteRollover).windows = u.windows := by rw [noteRollover_eq]
@[simp] theorem noteRollover_romPort (u : Ef24) :
    (u.noteRollover).romPort = u.romPort := by rw [noteRollover_eq]
@[simp] theorem noteRollover_command (u : Ef24) :
    (u.noteRollover).command = u.command := by rw [noteRollover_eq]
@[simp] theorem noteRollover_loader (u : Ef24) :
    (u.noteRollover).loader = u.loader := by rw [noteRollover_eq]
@[simp] theorem noteRollover_actions (u : Ef24) :
    (u.noteRollover).actions = u.actions := by rw [noteRollover_eq]
@[simp] theorem noteRollover_sound (u : Ef24) :
    (u.noteRollover).sound = u.sound := by rw [noteRollover_eq]
@[simp] theorem noteRollover_rumble (u : Ef24) :
    (u.noteRollover).rumble = u.rumble := by rw [noteRollover_eq]
@[simp] theorem noteRollover_save (u : Ef24) :
    (u.noteRollover).save = u.save := by rw [noteRollover_eq]
@[simp] theorem noteRollover_schedule (u : Ef24) :
    (u.noteRollover).schedule = u.schedule := by rw [noteRollover_eq]
@[simp] theorem noteRollover_power (u : Ef24) :
    (u.noteRollover).power = u.power := by rw [noteRollover_eq]
@[simp] theorem noteRollover_chip (u : Ef24) :
    (u.noteRollover).chip = u.chip := by rw [noteRollover_eq]
@[simp] theorem noteRollover_free (u : Ef24) :
    (u.noteRollover).free = u.free := by rw [noteRollover_eq]

/-! `noteSupply` -/

@[simp] theorem noteSupply_romCode (u : Ef24) :
    (u.noteSupply).romCode = u.romCode := by rw [noteSupply_eq]
@[simp] theorem noteSupply_sramCode (u : Ef24) :
    (u.noteSupply).sramCode = u.sramCode := by rw [noteSupply_eq]
@[simp] theorem noteSupply_rom (u : Ef24) :
    (u.noteSupply).rom = u.rom := by rw [noteSupply_eq]
@[simp] theorem noteSupply_sram (u : Ef24) :
    (u.noteSupply).sram = u.sram := by rw [noteSupply_eq]
@[simp] theorem noteSupply_readData (u : Ef24) :
    (u.noteSupply).readData = u.readData := by rw [noteSupply_eq]
@[simp] theorem noteSupply_crstLow (u : Ef24) :
    (u.noteSupply).crstLow = u.crstLow := by rw [noteSupply_eq]
@[simp] theorem noteSupply_windows (u : Ef24) :
    (u.noteSupply).windows = u.windows := by rw [noteSupply_eq]
@[simp] theorem noteSupply_romPort (u : Ef24) :
    (u.noteSupply).romPort = u.romPort := by rw [noteSupply_eq]
@[simp] theorem noteSupply_command (u : Ef24) :
    (u.noteSupply).command = u.command := by rw [noteSupply_eq]
@[simp] theorem noteSupply_loader (u : Ef24) :
    (u.noteSupply).loader = u.loader := by rw [noteSupply_eq]
@[simp] theorem noteSupply_actions (u : Ef24) :
    (u.noteSupply).actions = u.actions := by rw [noteSupply_eq]
@[simp] theorem noteSupply_sound (u : Ef24) :
    (u.noteSupply).sound = u.sound := by rw [noteSupply_eq]
@[simp] theorem noteSupply_rumble (u : Ef24) :
    (u.noteSupply).rumble = u.rumble := by rw [noteSupply_eq]
@[simp] theorem noteSupply_save (u : Ef24) :
    (u.noteSupply).save = u.save := by rw [noteSupply_eq]
@[simp] theorem noteSupply_calendar (u : Ef24) :
    (u.noteSupply).calendar = u.calendar := by rw [noteSupply_eq]
@[simp] theorem noteSupply_schedule (u : Ef24) :
    (u.noteSupply).schedule = u.schedule := by rw [noteSupply_eq]
@[simp] theorem noteSupply_power (u : Ef24) :
    (u.noteSupply).power = u.power := by rw [noteSupply_eq]
@[simp] theorem noteSupply_chip (u : Ef24) :
    (u.noteSupply).chip = u.chip := by rw [noteSupply_eq]
@[simp] theorem noteSupply_free (u : Ef24) :
    (u.noteSupply).free = u.free := by rw [noteSupply_eq]

/-! `noteCaughtUp` -/

@[simp] theorem noteCaughtUp_romCode (u : Ef24) :
    (u.noteCaughtUp).romCode = u.romCode := by rw [noteCaughtUp_eq]
@[simp] theorem noteCaughtUp_sramCode (u : Ef24) :
    (u.noteCaughtUp).sramCode = u.sramCode := by rw [noteCaughtUp_eq]
@[simp] theorem noteCaughtUp_rom (u : Ef24) :
    (u.noteCaughtUp).rom = u.rom := by rw [noteCaughtUp_eq]
@[simp] theorem noteCaughtUp_sram (u : Ef24) :
    (u.noteCaughtUp).sram = u.sram := by rw [noteCaughtUp_eq]
@[simp] theorem noteCaughtUp_readData (u : Ef24) :
    (u.noteCaughtUp).readData = u.readData := by rw [noteCaughtUp_eq]
@[simp] theorem noteCaughtUp_crstLow (u : Ef24) :
    (u.noteCaughtUp).crstLow = u.crstLow := by rw [noteCaughtUp_eq]
@[simp] theorem noteCaughtUp_windows (u : Ef24) :
    (u.noteCaughtUp).windows = u.windows := by rw [noteCaughtUp_eq]
@[simp] theorem noteCaughtUp_romPort (u : Ef24) :
    (u.noteCaughtUp).romPort = u.romPort := by rw [noteCaughtUp_eq]
@[simp] theorem noteCaughtUp_command (u : Ef24) :
    (u.noteCaughtUp).command = u.command := by rw [noteCaughtUp_eq]
@[simp] theorem noteCaughtUp_loader (u : Ef24) :
    (u.noteCaughtUp).loader = u.loader := by rw [noteCaughtUp_eq]
@[simp] theorem noteCaughtUp_actions (u : Ef24) :
    (u.noteCaughtUp).actions = u.actions := by rw [noteCaughtUp_eq]
@[simp] theorem noteCaughtUp_sound (u : Ef24) :
    (u.noteCaughtUp).sound = u.sound := by rw [noteCaughtUp_eq]
@[simp] theorem noteCaughtUp_rumble (u : Ef24) :
    (u.noteCaughtUp).rumble = u.rumble := by rw [noteCaughtUp_eq]
@[simp] theorem noteCaughtUp_save (u : Ef24) :
    (u.noteCaughtUp).save = u.save := by rw [noteCaughtUp_eq]
@[simp] theorem noteCaughtUp_calendar (u : Ef24) :
    (u.noteCaughtUp).calendar = u.calendar := by rw [noteCaughtUp_eq]
@[simp] theorem noteCaughtUp_schedule (u : Ef24) :
    (u.noteCaughtUp).schedule = u.schedule := by rw [noteCaughtUp_eq]
@[simp] theorem noteCaughtUp_power (u : Ef24) :
    (u.noteCaughtUp).power = u.power := by rw [noteCaughtUp_eq]
@[simp] theorem noteCaughtUp_chip (u : Ef24) :
    (u.noteCaughtUp).chip = u.chip := by rw [noteCaughtUp_eq]
@[simp] theorem noteCaughtUp_free (u : Ef24) :
    (u.noteCaughtUp).free = u.free := by rw [noteCaughtUp_eq]

theorem dispatch_save (u : Ef24) (source : DispatchSource) (first : Nat) :
    (u.dispatch source first).save = { u.save with flags := (u.dispatch source first).save.flags } := by
  conv => lhs; rw [dispatch_eq]

theorem fireAll_save (u : Ef24) (fires : ScheduleEntry → Bool) :
    (u.fireAll fires).save = { u.save with flags := (u.fireAll fires).save.flags } := by
  conv => lhs; rw [fireAll_eq]

theorem deliverAll_save (u : Ef24) :
    (u.deliverAll).save = { u.save with flags := (u.deliverAll).save.flags } := by
  conv => lhs; rw [deliverAll_eq]

@[simp] theorem withRumble_rumble (u : Ef24) (x : Rumble × List Posting) : (u.withRumble x).rumble = x.1 := by
  rw [withRumble_eq]

@[simp] theorem withSound_sound (u : Ef24) (x : Sound × List SoundEffect) : (u.withSound x).sound = x.1 := by
  rw [withSound_eq]

end Sys2Proof.Machine
end

