-- ==== Sys2Proof/Laws/Tables.lean ====
section
/-! SUPPORT. Tables: what a put changes; the slots and the schedule entries after an update of one or of all of them. -/

namespace Sys2Proof.Machine

/-- The entry put is the entry read. -/
theorem table_get_put_same {α : Type} {n : Nat} (t : Vector α n) {i : Nat} (x beyond : α) (h : i < n) :
    Table.get (Table.put t i x) i beyond = x := by
  unfold Table.get Table.put
  simp [List.getD, h]

/-- Every other entry is as before. -/
theorem table_get_put_other {α : Type} {n : Nat} (t : Vector α n) {i j : Nat} (x beyond : α) (h : i ≠ j) :
    Table.get (Table.put t i x) j beyond = Table.get t j beyond := by
  unfold Table.get Table.put
  simp [List.getD, h]

/-- A table of one entry throughout. -/
theorem table_get_replicate {α : Type} {n i : Nat} (x beyond : α) (h : i < n) :
    Table.get (Vector.replicate n x) i beyond = x := by
  unfold Table.get
  simp [List.getD, h]

/-- The slots after an update of one. -/
theorem onSlot_slot (s : Save) {k : Nat} (j : Nat) (f : Slot → Slot) (hk : k < 8) :
    (s.onSlot k f).slot j = if k = j then f (s.slot j) else s.slot j := by
  unfold Save.onSlot Save.slot
  split
  · rename_i h; subst h; exact table_get_put_same _ _ _ hk
  · rename_i h; exact table_get_put_other _ _ _ h

/-- The slots after an update of all of them. -/
theorem foldSlots_slot (f : Slot → Slot) {n : Nat} (hn : n ≤ 8) (s : Save) (j : Nat) :
    ((List.range n).foldl (fun t k => t.onSlot k f) s).slot j = if j < n then f (s.slot j) else s.slot j := by
  induction n with
  | zero => simp
  | succ n ih =>
    rw [List.range_succ, List.foldl_append, List.foldl_cons, List.foldl_nil, onSlot_slot _ _ _ (by omega), ih (by omega)]
    by_cases h1 : n = j
    · subst h1; simp
    · rw [if_neg h1]
      split <;> rename_i h2
      · rw [if_pos (by omega)]
      · rw [if_neg (by omega)]

/-- An update of slots changes nothing else of the Save Controller. -/
theorem foldSlots_eq (f : Slot → Slot) (l : List Nat) (s : Save) :
    l.foldl (fun t k => t.onSlot k f) s = { s with slots := (l.foldl (fun t k => t.onSlot k f) s).slots } := by
  induction l generalizing s with
  | nil => rfl
  | cons a l ih => rw [List.foldl_cons, ih]; rfl

/-- The schedule entries after a Pending mark is set or cleared. -/
theorem setPending_entry (u : Ef24) {i : Nat} (j : Nat) (b : Bool) (hi : i < 16) :
    (u.setPending i b).entry j = if i = j then { u.entry j with pending := b } else u.entry j := by
  unfold Ef24.setPending Ef24.onEntry Ef24.entry
  split
  · rename_i h; subst h; exact table_get_put_same _ _ _ hi
  · rename_i h; exact table_get_put_other _ _ _ h

/-- The schedule entries after the Pending marks of the first `n` are cleared. -/
theorem foldPending_entry (u : Ef24) {n : Nat} (hn : n ≤ 16) (j : Nat) :
    ((List.range n).foldl (fun v i => v.setPending i false) u).entry j =
      if j < n then { u.entry j with pending := false } else u.entry j := by
  induction n with
  | zero => simp
  | succ n ih =>
    rw [List.range_succ, List.foldl_append, List.foldl_cons, List.foldl_nil, setPending_entry _ _ _ (by omega),
      ih (by omega)]
    by_cases h1 : n = j
    · subst h1; simp
    · rw [if_neg h1]
      split <;> rename_i h2
      · rw [if_pos (by omega)]
      · rw [if_neg (by omega)]

/-- The schedule entries after every Pending mark is cleared (R166). -/
theorem clearPending_entry (u : Ef24) {j : Nat} (hj : j < 16) : u.clearPending.entry j = { u.entry j with pending := false } := by
  have h := foldPending_entry u (le_refl 16) j
  rw [if_pos hj] at h
  exact h

end Sys2Proof.Machine
end

