-- ==== Sys2Proof/Laws/Bodies.lean ====
section
/-! SUPPORT. What each command's body touches: one equation for each, naming every field it may change. Everything an
equation does not name is unchanged. -/

namespace Sys2Proof.Machine

theorem clearMarks_eq (s : Save) : s.clearMarks = { s with slots := s.clearMarks.slots } := by
  unfold Save.clearMarks
  exact foldSlots_eq _ _ _

theorem emptyRecords_eq (s : Save) : s.emptyRecords = { s with slots := s.emptyRecords.slots } := by
  unfold Save.emptyRecords
  exact foldSlots_eq _ _ _

theorem statusQuery_eq (u : Ef24) :
    u.statusQuery = { u with
      command := u.statusQuery.command } := rfl

theorem tableRead_eq (u : Ef24) :
    u.tableRead = { u with
      command := u.tableRead.command } := by
  unfold Ef24.tableRead
  repeat' split
  all_goals rfl

theorem loadTable_eq (u : Ef24) :
    u.loadTable = { u with
      command := u.loadTable.command
      loader := u.loadTable.loader } := by
  unfold Ef24.loadTable
  repeat' split
  all_goals rfl

theorem loadAbort_eq (u : Ef24) :
    u.loadAbort = { u with
      command := u.loadAbort.command
      loader := u.loadAbort.loader
      events := u.loadAbort.events } := by
  unfold Ef24.loadAbort Ef24.respond
  rw [abortLoad_eq]

theorem actionRun_eq (u : Ef24) :
    u.actionRun = { u with
      command := u.actionRun.command
      romPort := u.actionRun.romPort
      sound := u.actionRun.sound
      rumble := u.actionRun.rumble
      events := u.actionRun.events
      save := { u.save with flags := u.actionRun.save.flags } } := by
  unfold Ef24.actionRun
  split
  · rfl
  · split
    · rfl
    · unfold Ef24.respond; rw [dispatch_eq]

theorem answerPlay_eq (u : Ef24) (x : PlayResult) :
    (u.answerPlay x) = { u with
      command := (u.answerPlay x).command } := by
  cases x <;> rfl

theorem cuePlay_eq (u : Ef24) :
    u.cuePlay = { u with
      command := u.cuePlay.command
      sound := u.cuePlay.sound
      rumble := u.cuePlay.rumble
      events := u.cuePlay.events } := by
  unfold Ef24.cuePlay
  split
  · rfl
  · split
    · rfl
    · dsimp only
      rw [answerPlay_eq, withSound_eq]

theorem voiceStop_eq (u : Ef24) :
    u.voiceStop = { u with
      command := u.voiceStop.command
      sound := u.voiceStop.sound
      rumble := u.voiceStop.rumble
      events := u.voiceStop.events } := by
  unfold Ef24.voiceStop Ef24.onVoice
  split
  · rfl
  · unfold Ef24.respond; rw [withSound_eq]

theorem soundStopAll_eq (u : Ef24) :
    u.soundStopAll = { u with
      command := u.soundStopAll.command
      sound := u.soundStopAll.sound
      rumble := u.soundStopAll.rumble
      events := u.soundStopAll.events } := by
  unfold Ef24.soundStopAll Ef24.silence Ef24.respond
  rw [withSound_eq]

theorem soundVolume_eq (u : Ef24) :
    u.soundVolume = { u with
      command := u.soundVolume.command
      sound := u.soundVolume.sound } := by
  unfold Ef24.soundVolume
  repeat' split
  all_goals rfl

theorem voiceStatus_eq (u : Ef24) :
    u.voiceStatus = { u with
      command := u.voiceStatus.command } := rfl

theorem answerStart_eq (u : Ef24) (x : Submission) :
    (u.answerStart x) = { u with
      command := (u.answerStart x).command } := by
  cases x with
  | started => rfl
  | queued => rfl
  | refused reason => cases reason <;> rfl

theorem rumbleStart_eq (u : Ef24) :
    u.rumbleStart = { u with
      command := u.rumbleStart.command
      rumble := u.rumbleStart.rumble
      events := u.rumbleStart.events } := by
  unfold Ef24.rumbleStart
  repeat' split
  all_goals first
    | rfl
    | rw [answerStart_eq, submitRumble_eq]

theorem rumbleCut_eq (u : Ef24) :
    u.rumbleCut = { u with
      command := u.rumbleCut.command
      rumble := u.rumbleCut.rumble
      events := u.rumbleCut.events } := by
  unfold Ef24.rumbleCut Ef24.removeRumble Ef24.respond
  rw [withRumble_eq]

theorem enableRumble_eq (u : Ef24) (on : Bool) :
    (u.enableRumble on) = { u with
      rumble := (u.enableRumble on).rumble
      events := (u.enableRumble on).events } := by
  unfold Ef24.enableRumble Ef24.removeRumble
  split
  · rfl
  · rw [withRumble_eq]

theorem rumbleEnable_eq (u : Ef24) :
    u.rumbleEnable = { u with
      command := u.rumbleEnable.command
      rumble := u.rumbleEnable.rumble
      events := u.rumbleEnable.events } := by
  unfold Ef24.rumbleEnable
  split
  · rfl
  · unfold Ef24.respond; rw [enableRumble_eq]

theorem rumbleLimits_eq (u : Ef24) :
    u.rumbleLimits = { u with
      command := u.rumbleLimits.command
      rumble := { u.rumble with guardStrength := u.rumbleLimits.rumble.guardStrength, heavyThreshold := u.rumbleLimits.rumble.heavyThreshold } } := by
  unfold Ef24.rumbleLimits
  repeat' split
  all_goals rfl

theorem rumbleStatus_eq (u : Ef24) :
    u.rumbleStatus = { u with
      command := u.rumbleStatus.command } := rfl

theorem saveFormat_eq (u : Ef24) :
    u.saveFormat = { u with
      command := u.saveFormat.command
      save := { u.save with slots := u.saveFormat.save.slots, volume := u.saveFormat.save.volume, sequencer := u.saveFormat.save.sequencer } } := by
  unfold Ef24.saveFormat
  split
  · rfl
  · split
    · rfl
    · split
      · rfl
      · split
        · rfl
        · unfold Ef24.onSave Ef24.respond
          dsimp only
          rw [clearMarks_eq]

theorem slotSeed_eq (u : Ef24) :
    u.slotSeed = { u with
      command := u.slotSeed.command
      save := { u.save with sequencer := u.slotSeed.save.sequencer } } := by
  unfold Ef24.slotSeed Ef24.withSlot
  repeat' split
  all_goals rfl

theorem slotCommit_eq (u : Ef24) :
    u.slotCommit = { u with
      command := u.slotCommit.command
      save := { u.save with guard := u.slotCommit.save.guard, sequencer := u.slotCommit.save.sequencer } } := by
  unfold Ef24.slotCommit Ef24.withSlot
  repeat' split
  all_goals first
    | rfl
    | (dsimp only; split <;> rfl)

theorem slotDiscard_eq (u : Ef24) :
    u.slotDiscard = { u with
      command := u.slotDiscard.command
      save := { u.save with slots := u.slotDiscard.save.slots, sequencer := u.slotDiscard.save.sequencer } } := by
  unfold Ef24.slotDiscard Ef24.withSlot
  repeat' split
  all_goals rfl

theorem slotVerify_eq (u : Ef24) :
    u.slotVerify = { u with
      command := u.slotVerify.command
      events := u.slotVerify.events
      save := { u.save with slots := u.slotVerify.save.slots, sequencer := u.slotVerify.save.sequencer } } := by
  unfold Ef24.slotVerify Ef24.withSlot
  repeat' split
  all_goals first
    | rfl
    | (dsimp only; split <;> rfl)

theorem slotInfo_eq (u : Ef24) :
    u.slotInfo = { u with
      command := u.slotInfo.command } := by
  unfold Ef24.slotInfo
  repeat' split
  all_goals rfl

theorem askFlags_eq (u : Ef24) (kind : FlagKind) (first count : Nat) (polarity : Bool) :
    (u.askFlags kind first count polarity) = { u with
      command := (u.askFlags kind first count polarity).command
      save := { u.save with flags := (u.askFlags kind first count polarity).save.flags } } := by
  unfold Ef24.askFlags
  repeat' split
  all_goals rfl

theorem singleFlag_eq (u : Ef24) (kind : FlagKind) :
    (u.singleFlag kind) = { u with
      command := (u.singleFlag kind).command
      save := { u.save with flags := (u.singleFlag kind).save.flags } } := by
  unfold Ef24.singleFlag
  repeat' split
  all_goals first
    | rfl
    | rw [askFlags_eq]

theorem flagScan_eq (u : Ef24) :
    u.flagScan = { u with
      command := u.flagScan.command
      save := { u.save with flags := u.flagScan.save.flags } } := by
  unfold Ef24.flagScan
  repeat' split
  all_goals first
    | rfl
    | rw [askFlags_eq]

theorem flagClearRange_eq (u : Ef24) :
    u.flagClearRange = { u with
      command := u.flagClearRange.command
      save := { u.save with flags := u.flagClearRange.save.flags } } := by
  unfold Ef24.flagClearRange
  repeat' split
  all_goals first
    | rfl
    | rw [askFlags_eq]

theorem noteSetCaughtUp_eq (u : Ef24) (b : Bool) :
    (u.noteSetCaughtUp b) = { u with
      events := (u.noteSetCaughtUp b).events } := by
  unfold Ef24.noteSetCaughtUp
  repeat' split
  all_goals rfl

theorem countRollover_eq (u : Ef24) :
    u.countRollover = { u with
      calendar := u.countRollover.calendar
      romPort := u.countRollover.romPort
      sound := u.countRollover.sound
      rumble := u.countRollover.rumble
      events := u.countRollover.events
      schedule := u.countRollover.schedule
      save := { u.save with flags := u.countRollover.save.flags } } := by
  unfold Ef24.countRollover Ef24.tellRollover
  rw [fireAll_eq, noteRollover_eq]
  rfl

theorem examineSecond_eq (u : Ef24) :
    u.examineSecond = { u with
      calendar := u.examineSecond.calendar
      romPort := u.examineSecond.romPort
      sound := u.examineSecond.sound
      rumble := u.examineSecond.rumble
      events := u.examineSecond.events
      schedule := u.examineSecond.schedule
      save := { u.save with flags := u.examineSecond.save.flags } } := by
  unfold Ef24.examineSecond Ef24.tellMinute
  dsimp only
  split <;> split
  · rw [fireAll_eq, countRollover_eq]
  · rw [fireAll_eq]
  · rw [countRollover_eq]
  · rfl

theorem secondTrue_eq (u : Ef24) :
    u.secondTrue = { u with
      calendar := u.secondTrue.calendar
      romPort := u.secondTrue.romPort
      sound := u.secondTrue.sound
      rumble := u.secondTrue.rumble
      events := u.secondTrue.events
      schedule := u.secondTrue.schedule
      save := { u.save with flags := u.secondTrue.save.flags } } := by
  unfold Ef24.secondTrue
  dsimp only
  split
  · rw [examineSecond_eq]; rfl
  · rfl

theorem secondBehind_eq (u : Ef24) :
    u.secondBehind = { u with
      calendar := u.secondBehind.calendar
      events := u.secondBehind.events } := by
  unfold Ef24.secondBehind
  dsimp only
  split
  · rw [noteCaughtUp_eq]; rfl
  · rfl

theorem second_eq (u : Ef24) :
    u.second = { u with
      calendar := u.second.calendar
      romPort := u.second.romPort
      sound := u.second.sound
      rumble := u.second.rumble
      events := u.second.events
      schedule := u.second.schedule
      save := { u.save with flags := u.second.save.flags } } := by
  unfold Ef24.second
  split
  · rfl
  · split
    · rw [secondBehind_eq]
    · rw [secondTrue_eq]

theorem crystalSecond_eq (u : Ef24) :
    u.crystalSecond = { u with
      calendar := u.crystalSecond.calendar
      romPort := u.crystalSecond.romPort
      sound := u.crystalSecond.sound
      rumble := u.crystalSecond.rumble
      events := u.crystalSecond.events
      schedule := u.crystalSecond.schedule
      save := { u.save with flags := u.crystalSecond.save.flags } } := by
  unfold Ef24.crystalSecond
  repeat' split
  all_goals first
    | rfl
    | rw [second_eq]

theorem applyDays_eq (u : Ef24) (applied skipped : Nat) :
    (u.applyDays applied skipped) = { u with
      calendar := (u.applyDays applied skipped).calendar
      romPort := (u.applyDays applied skipped).romPort
      sound := (u.applyDays applied skipped).sound
      rumble := (u.applyDays applied skipped).rumble
      events := (u.applyDays applied skipped).events
      schedule := (u.applyDays applied skipped).schedule
      save := { u.save with flags := (u.applyDays applied skipped).save.flags } } := by
  unfold Ef24.applyDays Ef24.tellRollover
  split
  · rw [fireAll_eq]; rfl
  · rfl

theorem setForward_eq (u : Ef24) (t : DateTime) :
    (u.setForward t) = { u with
      calendar := (u.setForward t).calendar
      romPort := (u.setForward t).romPort
      sound := (u.setForward t).sound
      rumble := (u.setForward t).rumble
      events := (u.setForward t).events
      schedule := (u.setForward t).schedule
      save := { u.save with flags := (u.setForward t).save.flags } } := by
  unfold Ef24.setForward
  rw [applyDays_eq, noteSetCaughtUp_eq]
  rfl

theorem clockSet_eq (u : Ef24) :
    u.clockSet = { u with
      command := u.clockSet.command
      calendar := u.clockSet.calendar
      romPort := u.clockSet.romPort
      sound := u.clockSet.sound
      rumble := u.clockSet.rumble
      events := u.clockSet.events
      schedule := u.clockSet.schedule
      save := { u.save with flags := u.clockSet.save.flags } } := by
  unfold Ef24.clockSet
  dsimp only
  split
  · rfl
  · split
    · rfl
    · split
      · unfold Ef24.respond; rw [setForward_eq]
      · rfl

theorem clockRead_eq (u : Ef24) :
    u.clockRead = { u with
      command := u.clockRead.command } := rfl

theorem dayStartSet_eq (u : Ef24) :
    u.dayStartSet = { u with
      command := u.dayStartSet.command
      calendar := u.dayStartSet.calendar } := by
  unfold Ef24.dayStartSet
  repeat' split
  all_goals rfl

theorem gameDayRead_eq (u : Ef24) :
    u.gameDayRead = { u with
      command := u.gameDayRead.command } := rfl

theorem advanceCapSet_eq (u : Ef24) :
    u.advanceCapSet = { u with
      command := u.advanceCapSet.command
      calendar := u.advanceCapSet.calendar } := by
  unfold Ef24.advanceCapSet
  repeat' split
  all_goals rfl

theorem timerRun_eq (u : Ef24) :
    u.timerRun = { u with
      command := u.timerRun.command
      calendar := u.timerRun.calendar } := rfl

theorem timerStop_eq (u : Ef24) :
    u.timerStop = { u with
      command := u.timerStop.command
      calendar := u.timerStop.calendar } := rfl

theorem timerClear_eq (u : Ef24) :
    u.timerClear = { u with
      command := u.timerClear.command
      calendar := u.timerClear.calendar } := rfl

theorem timerRead_eq (u : Ef24) :
    u.timerRead = { u with
      command := u.timerRead.command } := rfl

theorem hundredth_eq (u : Ef24) :
    u.hundredth = { u with
      calendar := u.hundredth.calendar } := by
  unfold Ef24.hundredth
  repeat' split
  all_goals rfl

theorem eventTake_eq (u : Ef24) :
    u.eventTake = { u with
      command := u.eventTake.command
      events := u.eventTake.events } := by
  unfold Ef24.eventTake
  repeat' split
  all_goals rfl

theorem eventMaskSet_eq (u : Ef24) :
    u.eventMaskSet = { u with
      command := u.eventMaskSet.command
      events := u.eventMaskSet.events } := by
  unfold Ef24.eventMaskSet
  repeat' split
  all_goals rfl

theorem soundSleep_eq (u : Ef24) :
    u.soundSleep = { u with
      sound := u.soundSleep.sound
      rumble := u.soundSleep.rumble
      events := u.soundSleep.events } := by
  unfold Ef24.soundSleep
  rw [withSound_eq]

theorem removeRumble_eq (u : Ef24) (cause : CutCause) :
    (u.removeRumble cause) = { u with
      rumble := (u.removeRumble cause).rumble
      events := (u.removeRumble cause).events } := by
  unfold Ef24.removeRumble
  rw [withRumble_eq]

theorem reactToSleep_eq (u : Ef24) (n : Nat) :
    (u.reactToSleep n) = { u with
      loader := (u.reactToSleep n).loader
      sound := (u.reactToSleep n).sound
      rumble := (u.reactToSleep n).rumble
      events := (u.reactToSleep n).events } := by
  unfold Ef24.reactToSleep
  split
  · rw [abortLoad_eq, removeRumble_eq, soundSleep_eq]
  · rw [removeRumble_eq, abortLoad_eq, soundSleep_eq]
  · rw [abortLoad_eq, soundSleep_eq, removeRumble_eq]
  · rw [soundSleep_eq, abortLoad_eq, removeRumble_eq]
  · rw [removeRumble_eq, soundSleep_eq, abortLoad_eq]
  · rw [soundSleep_eq, removeRumble_eq, abortLoad_eq]

theorem enterSleep_eq (u : Ef24) :
    u.enterSleep = { u with
      loader := u.enterSleep.loader
      sound := u.enterSleep.sound
      rumble := u.enterSleep.rumble
      events := u.enterSleep.events
      chip := u.enterSleep.chip
      free := u.enterSleep.free } := by
  unfold Ef24.enterSleep
  rw [reactToSleep_eq]

theorem sleep_eq (u : Ef24) :
    u.sleep = { u with
      command := u.sleep.command
      loader := u.sleep.loader
      sound := u.sleep.sound
      rumble := u.sleep.rumble
      events := u.sleep.events
      chip := u.sleep.chip
      free := u.sleep.free } := by
  unfold Ef24.sleep
  split
  · rfl
  · unfold Ef24.respond; rw [enterSleep_eq]

theorem wake_eq (u : Ef24) :
    u.wake = { u with
      command := u.wake.command
      chip := u.wake.chip
      romPort := u.wake.romPort
      sound := u.wake.sound
      rumble := u.wake.rumble
      events := u.wake.events
      schedule := u.wake.schedule
      save := { u.save with flags := u.wake.save.flags } } := by
  unfold Ef24.wake
  split
  · unfold Ef24.respond; rw [deliverAll_eq]
  · split <;> rfl

theorem supplyRead_eq (u : Ef24) :
    u.supplyRead = { u with
      command := u.supplyRead.command } := rfl

theorem answerBadOpcode_eq (u : Ef24) :
    u.answerBadOpcode = { u with
      command := u.answerBadOpcode.command } := by
  unfold Ef24.answerBadOpcode
  repeat' split
  all_goals rfl

theorem onVoice_eq (u : Ef24) (f : Nat → Voice → Voice × List SoundEffect) (i : Nat) :
    (u.onVoice f i) = { u with
      sound := (u.onVoice f i).sound
      rumble := (u.onVoice f i).rumble
      events := (u.onVoice f i).events } := by
  unfold Ef24.onVoice
  rw [withSound_eq]

theorem reachPrimeLimit_eq (u : Ef24) (i : Nat) :
    (u.reachPrimeLimit i) = { u with
      sound := (u.reachPrimeLimit i).sound
      rumble := (u.reachPrimeLimit i).rumble
      events := (u.reachPrimeLimit i).events } := by
  unfold Ef24.reachPrimeLimit
  repeat' split
  all_goals first
    | rfl
    | rw [onVoice_eq]

theorem outputSample_eq (u : Ef24) :
    u.outputSample = { u with
      sound := u.outputSample.sound
      rumble := u.outputSample.rumble
      events := u.outputSample.events } := by
  unfold Ef24.outputSample
  rw [withSound_eq]

theorem handOver_eq (u : Ef24) (r : Requester) (line : Nat) (words : List Word) :
    (u.handOver r line words) = { u with
      sound := (u.handOver r line words).sound
      rumble := (u.handOver r line words).rumble
      events := (u.handOver r line words).events
      loader := (u.handOver r line words).loader } := by
  unfold Ef24.handOver
  split
  · rw [onVoice_eq]
  · rfl

theorem completeFetch_eq (u : Ef24) (f : Fetch) :
    (u.completeFetch f) = { u with
      romPort := (u.completeFetch f).romPort
      sound := (u.completeFetch f).sound
      rumble := (u.completeFetch f).rumble
      events := (u.completeFetch f).events
      loader := (u.completeFetch f).loader } := by
  unfold Ef24.completeFetch
  dsimp only
  split
  · rfl
  · rw [handOver_eq]

theorem fetchWord_eq (u : Ef24) :
    u.fetchWord = { u with
      romPort := u.fetchWord.romPort
      sound := u.fetchWord.sound
      rumble := u.fetchWord.rumble
      events := u.fetchWord.events
      loader := u.fetchWord.loader } := by
  unfold Ef24.fetchWord
  split
  · split
    · rfl
    · rw [completeFetch_eq]
  · rfl
  · rfl

theorem fetchComplete_eq (u : Ef24) :
    u.fetchComplete = { u with
      romPort := u.fetchComplete.romPort
      sound := u.fetchComplete.sound
      rumble := u.fetchComplete.rumble
      events := u.fetchComplete.events
      loader := u.fetchComplete.loader } := by
  unfold Ef24.fetchComplete
  split
  · split
    · rfl
    · rw [completeFetch_eq]
  · rfl
  · rfl

theorem swap_eq (u : Ef24) (l : Load) :
    (u.swap l) = { u with
      windows := (u.swap l).windows
      actions := (u.swap l).actions
      sound := (u.swap l).sound
      rumble := (u.swap l).rumble
      schedule := (u.swap l).schedule
      events := (u.swap l).events } := by
  unfold Ef24.swap
  split
  · rfl
  · rfl
  · rfl
  · rw [removeRumble_eq]
  · rw [removeRumble_eq]
  · rfl

theorem checkLoad_eq (u : Ef24) :
    u.checkLoad = { u with
      windows := u.checkLoad.windows
      actions := u.checkLoad.actions
      sound := u.checkLoad.sound
      rumble := u.checkLoad.rumble
      schedule := u.checkLoad.schedule
      events := u.checkLoad.events
      loader := u.checkLoad.loader } := by
  unfold Ef24.checkLoad
  split
  · split
    · split
      · rfl
      · unfold Ef24.endLoad; rw [swap_eq]; rfl
    · rfl
  · rfl

theorem dataWord_eq (u : Ef24) (w : Word) :
    (u.dataWord w) = { u with
      loader := (u.dataWord w).loader
      command := (u.dataWord w).command } := by
  unfold Ef24.dataWord
  split
  · split <;> rfl
  · rfl

theorem postWrite_eq (u : Ef24) (slot offset : Nat) (value : Word) :
    (u.postWrite slot offset value) = { u with
      events := (u.postWrite slot offset value).events
      save := { u.save with slots := (u.postWrite slot offset value).save.slots, buffer := (u.postWrite slot offset value).save.buffer } } := by
  unfold Ef24.postWrite
  repeat' split
  all_goals rfl

theorem stageWrite_eq (u : Ef24) (slot offset : Nat) (value : Word) :
    (u.stageWrite slot offset value) = { u with
      events := (u.stageWrite slot offset value).events
      save := { u.save with slots := (u.stageWrite slot offset value).save.slots, buffer := (u.stageWrite slot offset value).save.buffer, sequencer := (u.stageWrite slot offset value).save.sequencer, guard := (u.stageWrite slot offset value).save.guard } } := by
  unfold Ef24.stageWrite
  split
  · rfl
  · split
    · rw [postWrite_eq]; rfl
    · split
      · rw [postWrite_eq]; rfl
      · rw [postWrite_eq]

theorem readPort_eq (u : Ef24) (p : Option Port) :
    (u.readPort p) = { u with
      readData := (u.readPort p).readData
      command := (u.readPort p).command } := by
  unfold Ef24.readPort
  split <;> rfl

theorem writePort_eq (u : Ef24) (w : Word) (p : Option Port) :
    (u.writePort w p) = { u with
      loader := (u.writePort w p).loader
      command := (u.writePort w p).command } := by
  unfold Ef24.writePort
  split
  · rfl
  · rw [dataWord_eq]
  · rfl
  · rfl
  · rfl
  · rfl

theorem readSaved_eq (u : Ef24) (address : Nat) :
    (u.readSaved address) = { u with
      readData := (u.readSaved address).readData
      save := { u.save with port := (u.readSaved address).save.port } } := rfl

theorem readWindow_eq (u : Ef24) (e : WindowEntry) (addr : Address) :
    (u.readWindow e addr) = { u with
      readData := (u.readWindow e addr).readData
      romPort := (u.readWindow e addr).romPort
      command := (u.readWindow e addr).command
      save := { u.save with port := (u.readWindow e addr).save.port } } := by
  unfold Ef24.readWindow
  split
  · rfl
  · unfold Ef24.readStage; split <;> rfl
  · unfold Ef24.readLive; split <;> rfl
  · unfold Ef24.readFlags; split <;> rfl
  · rfl
  · rw [readPort_eq]
  · rfl
  · rfl

theorem consoleRead_eq (u : Ef24) (addr : Address) :
    (u.consoleRead addr) = { u with
      readData := (u.consoleRead addr).readData
      romPort := (u.consoleRead addr).romPort
      command := (u.consoleRead addr).command
      save := { u.save with port := (u.consoleRead addr).save.port } } := by
  unfold Ef24.consoleRead
  split
  · split
    · rw [readWindow_eq]
    · rfl
  · rfl

theorem selectBank_eq (u : Ef24) (i : Nat) (e : WindowEntry) (v : Word) :
    (u.selectBank i e v) = { u with
      windows := (u.selectBank i e v).windows
      events := (u.selectBank i e v).events } := by
  unfold Ef24.selectBank
  repeat' split
  all_goals rfl

theorem trigger_eq (u : Ef24) (i : Nat) (e : WindowEntry) (v : Word) :
    (u.trigger i e v) = { u with
      romPort := (u.trigger i e v).romPort
      sound := (u.trigger i e v).sound
      rumble := (u.trigger i e v).rumble
      events := (u.trigger i e v).events
      save := { u.save with flags := (u.trigger i e v).save.flags } } := by
  unfold Ef24.trigger
  repeat' split
  all_goals first
    | rfl
    | rw [dispatch_eq]

theorem writeWindow_eq (u : Ef24) (i : Nat) (e : WindowEntry) (addr : Address) (v : Word) :
    (u.writeWindow i e addr v) = { u with
      windows := (u.writeWindow i e addr v).windows
      loader := (u.writeWindow i e addr v).loader
      command := (u.writeWindow i e addr v).command
      romPort := (u.writeWindow i e addr v).romPort
      sound := (u.writeWindow i e addr v).sound
      rumble := (u.writeWindow i e addr v).rumble
      events := (u.writeWindow i e addr v).events
      save := { u.save with slots := (u.writeWindow i e addr v).save.slots, buffer := (u.writeWindow i e addr v).save.buffer, sequencer := (u.writeWindow i e addr v).save.sequencer, guard := (u.writeWindow i e addr v).save.guard, flags := (u.writeWindow i e addr v).save.flags } } := by
  unfold Ef24.writeWindow
  split
  · rw [selectBank_eq]
  · unfold Ef24.writeStage
    split
    · rw [stageWrite_eq]
    · rfl
  · rfl
  · rfl
  · rw [trigger_eq]
  · rw [writePort_eq]
  · rfl
  · rfl

theorem consoleWrite_eq (u : Ef24) (addr : Address) (v : Word) :
    (u.consoleWrite addr v) = { u with
      windows := (u.consoleWrite addr v).windows
      loader := (u.consoleWrite addr v).loader
      command := (u.consoleWrite addr v).command
      romPort := (u.consoleWrite addr v).romPort
      sound := (u.consoleWrite addr v).sound
      rumble := (u.consoleWrite addr v).rumble
      events := (u.consoleWrite addr v).events
      save := { u.save with slots := (u.consoleWrite addr v).save.slots, buffer := (u.consoleWrite addr v).save.buffer, sequencer := (u.consoleWrite addr v).save.sequencer, guard := (u.consoleWrite addr v).save.guard, flags := (u.consoleWrite addr v).save.flags } } := by
  unfold Ef24.consoleWrite
  split
  · split
    · rw [writeWindow_eq]
    · rfl
  · rfl


/-! ## The Save Controller's steps -/


theorem drainOne_eq (u : Ef24) :
    u.drainOne = { u with
      sram := u.drainOne.sram
      save := { u.save with buffer := u.drainOne.save.buffer, port := u.drainOne.save.port } } := by
  unfold Ef24.drainOne
  repeat' split
  all_goals rfl

theorem flagAccess_eq (u : Ef24) :
    u.flagAccess = { u with
      sram := u.flagAccess.sram
      command := u.flagAccess.command
      save := { u.save with flags := u.flagAccess.save.flags, port := u.flagAccess.save.port } } := by
  unfold Ef24.flagAccess
  split
  · rfl
  · dsimp only
    split
    · split <;> rfl
    · rfl

theorem judgeVolume_eq (u : Ef24) (ws : List Word) :
    (u.judgeVolume ws) = { u with
      save := { u.save with volume := (u.judgeVolume ws).save.volume, slotCount := (u.judgeVolume ws).save.slotCount, sizes := (u.judgeVolume ws).save.sizes, sequencer := (u.judgeVolume ws).save.sequencer } } := by
  unfold Ef24.judgeVolume
  repeat' split
  all_goals rfl

theorem judgeIntent_eq (u : Ef24) (slot : Nat) (new prior : SlotRecord) (index : Nat) (crc : Word) :
    (u.judgeIntent slot new prior index crc) = { u with
      save := { u.save with sequencer := (u.judgeIntent slot new prior index crc).save.sequencer } } := by
  unfold Ef24.judgeIntent
  repeat' split
  all_goals rfl

theorem readIntent_eq (u : Ef24) (ws : List Word) :
    (u.readIntent ws) = { u with
      save := { u.save with sequencer := (u.readIntent ws).save.sequencer } } := by
  unfold Ef24.readIntent
  split
  · dsimp only
    split
    · rw [judgeIntent_eq]
    · rfl
  · rfl

theorem judgeLive_eq (u : Ef24) (k : Nat) (crc : Word) :
    (u.judgeLive k crc) = { u with
      events := (u.judgeLive k crc).events
      save := { u.save with slots := (u.judgeLive k crc).save.slots } } := by
  unfold Ef24.judgeLive
  repeat' split
  all_goals rfl

theorem verifyFrom_eq (u : Ef24) (fuel k : Nat) :
    (u.verifyFrom fuel k) = { u with
      events := (u.verifyFrom fuel k).events
      save := { u.save with slots := (u.verifyFrom fuel k).save.slots, sequencer := (u.verifyFrom fuel k).save.sequencer } } := by
  induction fuel generalizing k u with
  | zero => rfl
  | succ fuel ih =>
    unfold Ef24.verifyFrom
    split
    · rfl
    · split
      · rw [ih]
      · split
        · rw [ih, judgeLive_eq]
        · rfl

theorem afterRecord_eq (u : Ef24) (k : Nat) :
    (u.afterRecord k) = { u with
      events := (u.afterRecord k).events
      save := { u.save with slots := (u.afterRecord k).save.slots, sequencer := (u.afterRecord k).save.sequencer } } := by
  unfold Ef24.afterRecord
  repeat' split
  all_goals first
    | rfl
    | rw [verifyFrom_eq]

theorem judgeRecord_eq (u : Ef24) (k : Nat) (ws : List Word) :
    (u.judgeRecord k ws) = { u with
      events := (u.judgeRecord k ws).events
      save := { u.save with slots := (u.judgeRecord k ws).save.slots, sequencer := (u.judgeRecord k ws).save.sequencer } } := by
  unfold Ef24.judgeRecord
  split
  · rw [afterRecord_eq]; rfl
  · rfl

theorem recoveryAccess_eq (u : Ef24) (stage : RecoveryStage) :
    (u.recoveryAccess stage) = { u with
      sram := (u.recoveryAccess stage).sram
      events := (u.recoveryAccess stage).events
      save := { u.save with volume := (u.recoveryAccess stage).save.volume, slotCount := (u.recoveryAccess stage).save.slotCount, sizes := (u.recoveryAccess stage).save.sizes, slots := (u.recoveryAccess stage).save.slots, sequencer := (u.recoveryAccess stage).save.sequencer } } := by
  cases stage with
  | volumeRecord got =>
    unfold Ef24.recoveryAccess
    dsimp only
    split
    · rfl
    · rw [judgeVolume_eq]
  | intentRecord got =>
    unfold Ef24.recoveryAccess
    dsimp only
    split
    · rfl
    · rw [readIntent_eq]
  | intentScan slot new prior index crc =>
    unfold Ef24.recoveryAccess
    dsimp only
    rw [judgeIntent_eq]
  | resolving slot forward writes =>
    cases writes with
    | nil => rfl
    | cons c rest =>
      unfold Ef24.recoveryAccess
      dsimp only
      split <;> rfl
  | slotRecord k got =>
    unfold Ef24.recoveryAccess
    dsimp only
    split
    · rfl
    · rw [judgeRecord_eq]
  | rewriting k writes =>
    cases writes with
    | nil => rfl
    | cons c rest =>
      unfold Ef24.recoveryAccess
      dsimp only
      split
      · rw [afterRecord_eq]; rfl
      · rfl
  | verifying k index crc =>
    unfold Ef24.recoveryAccess
    dsimp only
    split
    · rfl
    · rw [verifyFrom_eq, judgeLive_eq]
  | finished => rfl

theorem writeNext_eq (u : Ef24) (writes : List (Nat × Word)) (q : List (Nat × Word) → Sequencer) :
    (u.writeNext writes q) = { u with
      sram := (u.writeNext writes q).sram
      save := { u.save with sequencer := (u.writeNext writes q).save.sequencer } } := by
  unfold Ef24.writeNext
  split <;> rfl

theorem copyNext_eq (u : Ef24) (k index : Nat) (held : Option Word) :
    (u.copyNext k index held) = { u with
      sram := (u.copyNext k index held).sram
      save := { u.save with sequencer := (u.copyNext k index held).save.sequencer } } := by
  unfold Ef24.copyNext
  split
  · split <;> rfl
  · rfl

theorem sequencerStep_eq (u : Ef24) :
    u.sequencerStep = { u with
      sram := u.sequencerStep.sram
      events := u.sequencerStep.events
      save := { u.save with volume := u.sequencerStep.save.volume, slotCount := u.sequencerStep.save.slotCount, sizes := u.sequencerStep.save.sizes, slots := u.sequencerStep.save.slots, sequencer := u.sequencerStep.save.sequencer } } := by
  unfold Ef24.sequencerStep
  split
  all_goals first
    | rfl
    | rw [writeNext_eq]
    | rw [copyNext_eq]
    | rw [recoveryAccess_eq]

theorem sequencerAccess_eq (u : Ef24) :
    u.sequencerAccess = { u with
      sram := u.sequencerAccess.sram
      events := u.sequencerAccess.events
      save := { u.save with volume := u.sequencerAccess.save.volume, slotCount := u.sequencerAccess.save.slotCount, sizes := u.sequencerAccess.save.sizes, slots := u.sequencerAccess.save.slots, sequencer := u.sequencerAccess.save.sequencer, port := u.sequencerAccess.save.port } } := by
  unfold Ef24.sequencerAccess
  split
  · unfold Ef24.takeSramPort Ef24.onSave; rw [sequencerStep_eq]
  · rfl

theorem leaveDraining_eq (u : Ef24) :
    u.leaveDraining = { u with
      save := { u.save with sequencer := u.leaveDraining.save.sequencer } } := by
  unfold Ef24.leaveDraining
  split <;> rfl

theorem guard_eq (u : Ef24) (k length : Nat) (crc : Word) :
    (u.guard k length crc) = { u with
      save := { u.save with sequencer := (u.guard k length crc).save.sequencer } } := by
  unfold Ef24.guard
  repeat' split
  all_goals rfl

theorem leaveScanning_eq (u : Ef24) :
    u.leaveScanning = { u with
      save := { u.save with sequencer := u.leaveScanning.save.sequencer } } := by
  unfold Ef24.leaveScanning
  split
  · rw [guard_eq]
  · rw [guard_eq]
  · rfl

theorem finishIntent_eq (u : Ef24) :
    u.finishIntent = { u with
      save := { u.save with slots := u.finishIntent.save.slots, sequencer := u.finishIntent.save.sequencer } } := by
  unfold Ef24.finishIntent
  split <;> rfl

theorem finishSwitching_eq (u : Ef24) :
    u.finishSwitching = { u with
      save := { u.save with slots := u.finishSwitching.save.slots, sequencer := u.finishSwitching.save.sequencer } } := by
  unfold Ef24.finishSwitching
  split <;> rfl

theorem finishClosing_eq (u : Ef24) :
    u.finishClosing = { u with
      events := u.finishClosing.events
      save := { u.save with slots := u.finishClosing.save.slots, sequencer := u.finishClosing.save.sequencer, guard := u.finishClosing.save.guard } } := by
  unfold Ef24.finishClosing
  split
  · split <;> rfl
  · rfl

theorem finishSeed_eq (u : Ef24) :
    u.finishSeed = { u with
      events := u.finishSeed.events
      save := { u.save with slots := u.finishSeed.save.slots, sequencer := u.finishSeed.save.sequencer } } := by
  unfold Ef24.finishSeed
  split <;> rfl

theorem finishFormat_eq (u : Ef24) :
    u.finishFormat = { u with
      events := u.finishFormat.events
      save := { u.save with slots := u.finishFormat.save.slots, slotCount := u.finishFormat.save.slotCount, sizes := u.finishFormat.save.sizes, volume := u.finishFormat.save.volume, sequencer := u.finishFormat.save.sequencer } } := by
  unfold Ef24.finishFormat
  split
  · unfold Ef24.postDone Ef24.post Ef24.onSave
    dsimp only
    rw [emptyRecords_eq]
  · rfl

theorem finishVerify_eq (u : Ef24) :
    u.finishVerify = { u with
      events := u.finishVerify.events
      save := { u.save with slots := u.finishVerify.save.slots, sequencer := u.finishVerify.save.sequencer } } := by
  unfold Ef24.finishVerify
  split
  · split <;> rfl
  · rfl

/-! ## The supply, the coin cell, reset -/

theorem halt_eq (u : Ef24) :
    u.halt = { u with
      chip := u.halt.chip
      romPort := u.halt.romPort
      save := { u.save with buffer := u.halt.save.buffer, flags := u.halt.save.flags, port := u.halt.save.port, guard := u.halt.save.guard }
      sound := { u.sound with aout := u.halt.sound.aout }
      rumble := { u.rumble with motor := u.halt.rumble.motor } } := by
  unfold Ef24.halt
  dsimp only
  split <;> rfl

theorem setCell_eq (u : Ef24) (millivolts : Option Nat) :
    (u.setCell millivolts) = { u with
      power := (u.setCell millivolts).power
      calendar := (u.setCell millivolts).calendar
      schedule := (u.setCell millivolts).schedule } := by
  unfold Ef24.setCell
  dsimp only
  split <;> rfl

theorem changeCoinLow_eq (u : Ef24) :
    u.changeCoinLow = { u with
      power := { u.power with coinLow := u.changeCoinLow.power.coinLow } } := by
  unfold Ef24.changeCoinLow
  split
  · rfl
  · split <;> rfl

theorem retentionLoss_eq (u : Ef24) :
    u.retentionLoss = { u with
      sram := u.retentionLoss.sram
      free := u.retentionLoss.free
      power := { u.power with retained := u.retentionLoss.power.retained } } := by
  unfold Ef24.retentionLoss
  repeat' split
  all_goals rfl

theorem sourceCheck_eq (u : Ef24) :
    u.sourceCheck = { u with
      sram := u.sourceCheck.sram
      free := u.sourceCheck.free
      power := { u.power with retained := u.sourceCheck.power.retained } } := by
  unfold Ef24.sourceCheck
  repeat' split
  all_goals rfl

/-- The start-up posts made, and what they report cleared. -/
theorem report_eq (v : Ef24) (ps : List Posting) : (v.postAll ps).clearReported = { v with
    calendar := { v.calendar with unreported := 0 }
    schedule := v.clearPending.schedule
    events := (v.postAll ps).events } := by
  have hs : (v.postAll ps).clearPending.schedule = v.clearPending.schedule :=
    clearPending_schedule_of (by rw [postAll_eq])
  unfold Ef24.clearReported Ef24.onCalendar
  rw [clearPending_eq, hs, postAll_eq]

/-- What the end of a core reset leaves: RUN, recovery begun, the start-up posts made and what they report cleared (R126, R144,
R166, R178). -/
theorem endReset_eq (u : Ef24) : u.endReset = { u with
    chip := some .run
    save := { u.save with sequencer := .recovering (.volumeRecord []) }
    calendar := { u.calendar with unreported := 0 }
    schedule := u.clearPending.schedule
    events := (u.postAll u.startupPosts).events
    free := u.free + 1 } := by
  have hs : ({ u with chip := some .run }.recover (.volumeRecord [])).clearPending.schedule = u.clearPending.schedule :=
    clearPending_schedule_of rfl
  have he : (({ u with chip := some .run }.recover (.volumeRecord [])).postAll u.startupPosts).events =
      (u.postAll u.startupPosts).events := postAll_events_of _ rfl rfl
  unfold Ef24.endReset
  rw [report_eq, hs, he]
  rfl

end Sys2Proof.Machine
end

