-- ==== Sys2Proof/Laws/Outcomes.lean ====
section
/-! SUPPORT. What the wrappers of the meanings answer: `run`, `runEvent`, `runFrame`, `Ef24.event`, `Ef24.endStep`. -/

namespace Sys2Proof.Machine

theorem run_eq (f : Ef24 → Ef24) (s : State) : run f s = s.answering (f s.settled) := rfl

theorem runEvent_eq (f : Ef24 → Ef24) (s : State) : runEvent f s = s.becoming (f s.toEf24) := rfl

/-- An event that is due while the core runs. -/
theorem event_due {u : Ef24} {due : Bool} (f : Ef24 → Ef24) (hr : u.coreRunning = true) (hd : due = true) :
    u.event due f = (f u).conclude := by simp [Ef24.event, hr, hd]

/-- An event that is not due. -/
theorem event_not_due {u : Ef24} {due : Bool} (f : Ef24 → Ef24) (hd : due = false) : u.event due f = u := by
  simp [Ef24.event, hd]

/-- An event while the core does not run. -/
theorem event_held {u : Ef24} (due : Bool) (f : Ef24 → Ef24) (hr : u.coreRunning = false) : u.event due f = u := by
  simp [Ef24.event, hr]

/-- An event's row when the event is due. -/
theorem runEvent_due {s : State} {due : Bool} (f : Ef24 → Ef24) (hr : s.coreRunning = true) (hd : due = true) :
    runEvent (fun u => u.event due f) s = s.answering (f s.toEf24) := by
  simp [runEvent, State.answering, Ef24.event, hr, hd]

/-- A step's end by its row when it is due. -/
theorem endStep_due {u : Ef24} {due : Ef24 → Bool} (finish : Ef24 → Ef24) (hr : u.coreRunning = true)
    (hd : due u = true) : u.endStep due finish = (finish u).conclude := by simp [Ef24.endStep, hr, hd]

/-- A frame that executes and passes its checks is carried out. -/
theorem execute_passes {u : Ef24} {c : Command} (body : Ef24 → Ef24) (h : u.passes c) : u.execute c body = body u := by
  obtain ⟨h1, h2, h3⟩ := h
  by_cases ha : u.chip = some .asleep
  · simp [Ef24.execute, h1, h2, h3 ha]
  · simp [Ef24.execute, h1, h2, ha]

/-- A frame that executes and passes its checks is carried out, and its row answers so. -/
theorem runFrame_passes {s : State} {c : Command} (body : Ef24 → Ef24) (h : s.settled.passes c) :
    runFrame c body s = s.answering (body s.settled) := by
  show s.answering (s.settled.execute c body) = _
  rw [execute_passes body h]

/-- A frame with a wrong argument count is answered BAD_LENGTH. -/
theorem runFrame_badLength {s : State} {c : Command} (body : Ef24 → Ef24) (h1 : s.settled.executes c = true)
    (h2 : c.accepts s.settled.command.argCount = false) :
    runFrame c body s = s.answering (s.settled.respond .badLength []) := by
  show s.answering (s.settled.execute c body) = _
  simp [Ef24.execute, h1, h2]

/-- A frame of a command that is not taken in ASLEEP is answered ASLEEP there. -/
theorem runFrame_asleep {s : State} {c : Command} (body : Ef24 → Ef24) (h1 : s.settled.executes c = true)
    (h2 : c.accepts s.settled.command.argCount = true) (h3 : s.settled.chip = some .asleep)
    (h4 : c.takenAsleep = false) : runFrame c body s = s.answering (s.settled.respond .asleep []) := by
  show s.answering (s.settled.execute c body) = _
  simp [Ef24.execute, h1, h2, h3, h4]

/-- A console read in a window of a kind. -/
theorem consoleRead_window {u : Ef24} {addr : Address} {i : Nat} {kind : WindowKind} (h : u.opensAs addr i kind) :
    u.consoleRead addr = u.readWindow (u.window i) addr := by
  obtain ⟨h1, h2, h3⟩ := h
  simp [Ef24.consoleRead, h1, h2]

/-- A console write in a window of a kind. -/
theorem consoleWrite_window {u : Ef24} {addr : Address} {value : Word} {i : Nat} {kind : WindowKind}
    (h : u.opensAs addr i kind) : u.consoleWrite addr value = u.writeWindow i (u.window i) addr value := by
  obtain ⟨h1, h2, h3⟩ := h
  simp [Ef24.consoleWrite, h1, h2]

/-- A console read while the core does not run. -/
theorem consoleRead_held {u : Ef24} (addr : Address) (h : u.coreRunning = false) :
    u.consoleRead addr = u.answer noneWord := by simp [Ef24.consoleRead, h]

/-- A console write while the core does not run. -/
theorem consoleWrite_held {u : Ef24} (addr : Address) (value : Word) (h : u.coreRunning = false) :
    u.consoleWrite addr value = u := by simp [Ef24.consoleWrite, h]

end Sys2Proof.Machine
end

