-- ==== Sys2Proof/Laws/Dispatch.lean ====
section
/-! SUPPORT. What each command's arm answers, one lemma for each constructor: the shared operation it runs. -/

namespace Sys2Proof.Machine

theorem exec_romRead (addr : Address) (s : State) :
    exec (.romRead addr) s = s.answering (s.settled.consoleRead addr) := rfl

theorem exec_bankSelect (addr : Address) (value : Word) (s : State) :
    exec (.bankSelect addr value) s = s.answering (s.settled.consoleWrite addr value) := rfl

theorem exec_saveStageRead (addr : Address) (s : State) :
    exec (.saveStageRead addr) s = s.answering (s.settled.consoleRead addr) := rfl

theorem exec_saveStageWrite (addr : Address) (value : Word) (s : State) :
    exec (.saveStageWrite addr value) s = s.answering (s.settled.consoleWrite addr value) := rfl

theorem exec_saveLiveRead (addr : Address) (s : State) :
    exec (.saveLiveRead addr) s = s.answering (s.settled.consoleRead addr) := rfl

theorem exec_flagsRead (addr : Address) (s : State) :
    exec (.flagsRead addr) s = s.answering (s.settled.consoleRead addr) := rfl

theorem exec_triggerWrite (addr : Address) (value : Word) (s : State) :
    exec (.triggerWrite addr value) s = s.answering (s.settled.consoleWrite addr value) := rfl

theorem exec_ignoredWrite (addr : Address) (value : Word) (s : State) :
    exec (.ignoredWrite addr value) s = s.answering (s.settled.consoleWrite addr value) := rfl

theorem exec_dataWrite (addr : Address) (value : Word) (s : State) :
    exec (.dataWrite addr value) s = s.answering (s.settled.consoleWrite addr value) := rfl

theorem exec_responseRead (addr : Address) (s : State) :
    exec (.responseRead addr) s = s.answering (s.settled.consoleRead addr) := rfl

theorem exec_statusRead (addr : Address) (s : State) :
    exec (.statusRead addr) s = s.answering (s.settled.consoleRead addr) := rfl

theorem exec_badOpcode (s : State) :
    exec .badOpcode s = s.answering (Ef24.answerBadOpcode s.settled) := rfl

theorem exec_statusQuery (s : State) :
    exec .statusQuery s = runFrame .statusQuery Ef24.statusQuery s := rfl

theorem exec_tableRead (s : State) :
    exec .tableRead s = runFrame .tableRead Ef24.tableRead s := rfl

theorem exec_loadTable (s : State) :
    exec .loadTable s = runFrame .loadTable Ef24.loadTable s := rfl

theorem exec_loadAbort (s : State) :
    exec .loadAbort s = runFrame .loadAbort Ef24.loadAbort s := rfl

theorem exec_actionRun (s : State) :
    exec .actionRun s = runFrame .actionRun Ef24.actionRun s := rfl

theorem exec_cuePlay (s : State) :
    exec .cuePlay s = runFrame .cuePlay Ef24.cuePlay s := rfl

theorem exec_voiceStop (s : State) :
    exec .voiceStop s = runFrame .voiceStop Ef24.voiceStop s := rfl

theorem exec_soundStopAll (s : State) :
    exec .soundStopAll s = runFrame .soundStopAll Ef24.soundStopAll s := rfl

theorem exec_soundVolume (s : State) :
    exec .soundVolume s = runFrame .soundVolume Ef24.soundVolume s := rfl

theorem exec_voiceStatus (s : State) :
    exec .voiceStatus s = runFrame .voiceStatus Ef24.voiceStatus s := rfl

theorem exec_rumbleStart (s : State) :
    exec .rumbleStart s = runFrame .rumbleStart Ef24.rumbleStart s := rfl

theorem exec_rumbleCut (s : State) :
    exec .rumbleCut s = runFrame .rumbleCut Ef24.rumbleCut s := rfl

theorem exec_rumbleEnable (s : State) :
    exec .rumbleEnable s = runFrame .rumbleEnable Ef24.rumbleEnable s := rfl

theorem exec_rumbleLimits (s : State) :
    exec .rumbleLimits s = runFrame .rumbleLimits Ef24.rumbleLimits s := rfl

theorem exec_rumbleStatus (s : State) :
    exec .rumbleStatus s = runFrame .rumbleStatus Ef24.rumbleStatus s := rfl

theorem exec_saveFormat (s : State) :
    exec .saveFormat s = runFrame .saveFormat Ef24.saveFormat s := rfl

theorem exec_slotSeed (s : State) :
    exec .slotSeed s = runFrame .slotSeed Ef24.slotSeed s := rfl

theorem exec_slotCommit (s : State) :
    exec .slotCommit s = runFrame .slotCommit Ef24.slotCommit s := rfl

theorem exec_slotDiscard (s : State) :
    exec .slotDiscard s = runFrame .slotDiscard Ef24.slotDiscard s := rfl

theorem exec_slotVerify (s : State) :
    exec .slotVerify s = runFrame .slotVerify Ef24.slotVerify s := rfl

theorem exec_slotInfo (s : State) :
    exec .slotInfo s = runFrame .slotInfo Ef24.slotInfo s := rfl

theorem exec_flagTest (s : State) :
    exec .flagTest s = runFrame .flagTest (·.singleFlag .test) s := rfl

theorem exec_flagSet (s : State) :
    exec .flagSet s = runFrame .flagSet (·.singleFlag .set) s := rfl

theorem exec_flagClear (s : State) :
    exec .flagClear s = runFrame .flagClear (·.singleFlag .clear) s := rfl

theorem exec_flagToggle (s : State) :
    exec .flagToggle s = runFrame .flagToggle (·.singleFlag .toggle) s := rfl

theorem exec_flagScan (s : State) :
    exec .flagScan s = runFrame .flagScan Ef24.flagScan s := rfl

theorem exec_flagClearRange (s : State) :
    exec .flagClearRange s = runFrame .flagClearRange Ef24.flagClearRange s := rfl

theorem exec_clockSet (s : State) :
    exec .clockSet s = runFrame .clockSet Ef24.clockSet s := rfl

theorem exec_clockRead (s : State) :
    exec .clockRead s = runFrame .clockRead Ef24.clockRead s := rfl

theorem exec_dayStartSet (s : State) :
    exec .dayStartSet s = runFrame .dayStartSet Ef24.dayStartSet s := rfl

theorem exec_gameDayRead (s : State) :
    exec .gameDayRead s = runFrame .gameDayRead Ef24.gameDayRead s := rfl

theorem exec_advanceCapSet (s : State) :
    exec .advanceCapSet s = runFrame .advanceCapSet Ef24.advanceCapSet s := rfl

theorem exec_timerRun (s : State) :
    exec .timerRun s = runFrame .timerRun Ef24.timerRun s := rfl

theorem exec_timerStop (s : State) :
    exec .timerStop s = runFrame .timerStop Ef24.timerStop s := rfl

theorem exec_timerClear (s : State) :
    exec .timerClear s = runFrame .timerClear Ef24.timerClear s := rfl

theorem exec_timerRead (s : State) :
    exec .timerRead s = runFrame .timerRead Ef24.timerRead s := rfl

theorem exec_eventTake (s : State) :
    exec .eventTake s = runFrame .eventTake Ef24.eventTake s := rfl

theorem exec_eventMaskSet (s : State) :
    exec .eventMaskSet s = runFrame .eventMaskSet Ef24.eventMaskSet s := rfl

theorem exec_sleep (s : State) :
    exec .sleep s = runFrame .sleep Ef24.sleep s := rfl

theorem exec_wake (s : State) :
    exec .wake s = runFrame .wake Ef24.wake s := rfl

theorem exec_supplyRead (s : State) :
    exec .supplyRead s = runFrame .supplyRead Ef24.supplyRead s := rfl

theorem exec_lineFetchWord (s : State) :
    exec .lineFetchWord s = s.answering (s.settled.whileRunning Ef24.fetchWord) := rfl

theorem exec_lineFetchComplete (s : State) :
    exec .lineFetchComplete s = s.answering (s.settled.whileRunning Ef24.fetchComplete) := rfl

theorem exec_tableCheck (s : State) :
    exec .tableCheck s = s.answering (s.settled.whileRunning Ef24.checkLoad) := rfl

theorem exec_outputSample (s : State) :
    exec .outputSample s = s.answering (s.settled.whileRunning Ef24.outputSample) := rfl

theorem exec_primeLimit (voice : Nat) (s : State) :
    exec (.primeLimit voice) s = s.answering (s.settled.whileRunning (·.reachPrimeLimit voice)) := rfl

theorem exec_loopReturn (voice : Nat) (s : State) :
    exec (.loopReturn voice) s = s.becoming (s.toEf24.loopReturn voice) := rfl

theorem exec_cueNaturalEnd (voice : Nat) (s : State) :
    exec (.cueNaturalEnd voice) s = s.becoming (s.toEf24.naturalEnd voice) := rfl

theorem exec_rampEnd (voice : Nat) (s : State) :
    exec (.rampEnd voice) s = s.becoming (s.toEf24.rampEnd voice) := rfl

theorem exec_tick (s : State) :
    exec .tick s = s.answering (s.settled.whileRunning Ef24.tick) := rfl

theorem exec_stepEnd (s : State) :
    exec .stepEnd s = s.becoming (s.toEf24.motorEnds.stepEnd) := rfl

theorem exec_patternFinished (s : State) :
    exec .patternFinished s = s.becoming (s.toEf24.motorEnds.patternFinished) := rfl

theorem exec_kickEnd (s : State) :
    exec .kickEnd s = s.becoming (Ef24.kickEnd s.toEf24) := rfl

theorem exec_coastStop (s : State) :
    exec .coastStop s = s.becoming (Ef24.coastStop s.toEf24) := rfl

theorem exec_endBrakeDone (s : State) :
    exec .endBrakeDone s = s.becoming (Ef24.endBrakeDone s.toEf24) := rfl

theorem exec_postedWriteDrain (s : State) :
    exec .postedWriteDrain s = s.answering (s.settled.access .drain Ef24.drainOne) := rfl

theorem exec_flagWordAccess (s : State) :
    exec .flagWordAccess s = s.answering (s.settled.access .flag Ef24.flagAccess) := rfl

theorem exec_sequencerAccess (s : State) :
    exec .sequencerAccess s = s.answering (s.settled.access .sequencer Ef24.sequencerAccess) := rfl

theorem exec_drainingDone (s : State) :
    exec .drainingDone s = s.becoming (Ef24.drainingDone s.toEf24) := rfl

theorem exec_scanDone (s : State) :
    exec .scanDone s = s.becoming (s.toEf24.endStep Ef24.scanDue Ef24.leaveScanning) := rfl

theorem exec_intentDone (s : State) :
    exec .intentDone s = s.becoming (s.toEf24.endStep (·.save.intentDue) Ef24.finishIntent) := rfl

theorem exec_switchingDone (s : State) :
    exec .switchingDone s = s.becoming (s.toEf24.endStep (·.save.switchingDue) Ef24.finishSwitching) := rfl

theorem exec_closingDone (s : State) :
    exec .closingDone s = s.becoming (s.toEf24.endStep (·.save.closingDue) Ef24.finishClosing) := rfl

theorem exec_seedDone (s : State) :
    exec .seedDone s = s.becoming (s.toEf24.endStep (·.save.seedDue) Ef24.finishSeed) := rfl

theorem exec_formatDone (s : State) :
    exec .formatDone s = s.becoming (s.toEf24.endStep (·.save.formatDue) Ef24.finishFormat) := rfl

theorem exec_verifyDone (s : State) :
    exec .verifyDone s = s.becoming (s.toEf24.endStep (·.save.verifyDue) Ef24.finishVerify) := rfl

theorem exec_recoveryDone (s : State) :
    exec .recoveryDone s = s.becoming (s.toEf24.endStep (·.save.recoveryDue) Ef24.finishRecovery) := rfl

theorem exec_asleepReached (s : State) :
    exec .asleepReached s = s.becoming (s.toEf24.settleBlocks.asleepReached) := rfl

theorem exec_calendarSecond (s : State) :
    exec .calendarSecond s = s.answering (Ef24.crystalSecond s.settled) := rfl

theorem exec_playTimerHundredth (s : State) :
    exec .playTimerHundredth s = s.answering (Ef24.hundredth s.settled) := rfl

theorem exec_vccCrossing (millivolts : Nat) (s : State) :
    exec (.vccCrossing millivolts) s = s.answering (s.settled.setVcc millivolts) := rfl

theorem exec_supplyStateChange (change : SupplyChange) (s : State) :
    exec (.supplyStateChange change) s = s.answering (s.settled.supplyChange change) := rfl

theorem exec_crstAssert (s : State) :
    exec .crstAssert s = s.answering (Ef24.assertReset s.settled) := rfl

theorem exec_crstRelease (s : State) :
    exec .crstRelease s = s.answering (Ef24.releaseReset s.settled) := rfl

theorem exec_vbatChange (millivolts : Option Nat) (s : State) :
    exec (.vbatChange millivolts) s = s.answering (s.settled.setCell millivolts) := rfl

theorem exec_coinCellLowChange (s : State) :
    exec .coinCellLowChange s = s.answering (Ef24.changeCoinLow s.settled) := rfl

theorem exec_retentionLoss (s : State) :
    exec .retentionLoss s = s.answering (Ef24.retentionLoss s.settled) := rfl

theorem exec_commandWrite (addr : Address) (value : Word) (s : State) :
    exec (.commandWrite addr value) s = s.answering (s.settled.consoleWrite addr value) := rfl

end Sys2Proof.Machine
end

