-- ==== Sys2Proof/Laws/Fields.lean ====
section
/-! SUPPORT. What the shared helpers give: a field that fits, the lowest number with a property, the tables after a load,
the lowest offending entry. -/

namespace Sys2Proof.Machine

/-- A value that fits its field is only moved up. -/
theorem put_of_fits (v lo w : Nat) (h : v < 2^w) : Field.put v lo w = v * 2^lo := by
  unfold Field.put; rw [Nat.mod_eq_of_lt h]

/-- A field read is the bits taken out. -/
theorem get_toNat (w : Word) (lo n : Nat) : Field.get w lo n = (w.extractLsb' lo n).toNat := by
  unfold Field.get; rw [BitVec.extractLsb'_toNat, Nat.shiftRight_eq_div_pow]

/-- A field read as a number of its width is the bits taken out. -/
theorem ofNat_get (w : Word) (lo n : Nat) : BitVec.ofNat n (Field.get w lo n) = w.extractLsb' lo n := by
  rw [get_toNat, BitVec.ofNat_toNat, BitVec.setWidth_eq]

/-- A value placed in a field of its own width is only moved up. -/
theorem put_toNat {n : Nat} (b : BitVec n) (lo : Nat) : Field.put b.toNat lo n = b.toNat * 2 ^ lo :=
  put_of_fits _ _ _ b.isLt

/-- A number in two words, the high one's low eight bits first, is those bits put together. -/
theorem ofNat_twoWords (high : BitVec 8) (low : Word) :
    BitVec.ofNat 24 (high.toNat * 65536 + low.toNat) = high ++ low := by
  apply BitVec.eq_of_toNat_eq
  have := high.isLt
  have := low.isLt
  rw [BitVec.toNat_append, BitVec.toNat_ofNat, Nat.mod_eq_of_lt (by omega), Nat.shiftLeft_eq,
    show high.toNat * 2 ^ 16 = 2 ^ 16 * high.toNat by ring, ← Nat.two_pow_add_eq_or_of_lt (by omega)]
  omega

/-- Swapping the bytes of a word turns it by eight bits (R65). -/
theorem swapBytes_rotate (w : Word) : swapBytes w = w.rotateLeft 8 := by
  unfold swapBytes word
  apply BitVec.eq_of_toNat_eq
  simp only [BitVec.toNat_ofNat, BitVec.toNat_rotateLeft, Field.put, Field.get]
  have := w.isLt
  have e1 : (2:ℕ)^(8%16) = 256 := rfl
  have e2 : (2:ℕ)^(16 - 8%16) = 256 := rfl
  rw [Nat.shiftLeft_eq, Nat.shiftRight_eq_div_pow, e1]
  have h1 : w.toNat * 256 % 2^16 = (w.toNat % 256) * 256 := by omega
  have h2 : w.toNat / 256 < 2^8 := by omega
  rw [h1, show (w.toNat % 256) * 256 = 2^8 * (w.toNat % 256) by ring, ← Nat.two_pow_add_eq_or_of_lt h2]
  have h4 : 2^8 * (w.toNat % 256) + w.toNat / 256 % 256 < 2^16 := by omega
  rw [Nat.mod_eq_of_lt h4]; omega

/-- The first of an ascending list with a property is the lowest with it. -/
theorem find_lowest_iff {p : Nat → Bool} {l : List Nat} (hl : l.Pairwise (· < ·)) (i : Nat) :
    l.find? p = some i ↔ (i ∈ l ∧ p i = true) ∧ ∀ j, (j ∈ l ∧ p j = true) → i ≤ j := by
  induction l with
  | nil => simp
  | cons a l ih =>
    rw [List.pairwise_cons] at hl
    rw [List.find?_cons]
    cases ha : p a with
    | true =>
      simp only [Option.some.injEq]
      constructor
      · rintro rfl
        refine ⟨⟨by simp, ha⟩, ?_⟩
        rintro j ⟨hj, _⟩
        rcases List.mem_cons.mp hj with rfl | hj
        · exact le_refl _
        · exact (hl.1 j hj).le
      · rintro ⟨⟨hi, hp⟩, h⟩
        have := h a ⟨by simp, ha⟩
        rcases List.mem_cons.mp hi with rfl | hi
        · rfl
        · exact absurd (hl.1 i hi) (by omega)
    | false =>
      rw [ih hl.2]
      constructor
      · rintro ⟨⟨hi, hp⟩, h⟩
        refine ⟨⟨by simp [hi], hp⟩, ?_⟩
        rintro j ⟨hj, hpj⟩
        rcases List.mem_cons.mp hj with rfl | hj
        · simp_all
        · exact h j ⟨hj, hpj⟩
      · rintro ⟨⟨hi, hp⟩, h⟩
        rcases List.mem_cons.mp hi with rfl | hi
        · simp_all
        · exact ⟨⟨hi, hp⟩, fun j hj => h j ⟨by simp [hj.1], hj.2⟩⟩

/-- The lowest offending entry of a table (R45). -/
theorem lowestOffender_iff (n : Nat) (p : Nat → Bool) (P : Nat → Prop) (h : ∀ i, i < n → (p i = true ↔ P i)) :
    (∀ k, lowestOffender n p = some k ↔ (k < n ∧ P k) ∧ ∀ m, (m < n ∧ P m) → k ≤ m) ∧
    (lowestOffender n p = none ↔ ∀ m, ¬ (m < n ∧ P m)) := by
  unfold lowestOffender upTo
  constructor
  · intro k
    rw [List.find?_range_eq_some]
    constructor
    · rintro ⟨h1, h2, h3⟩
      have hk : k < n := by simpa using h2
      refine ⟨⟨hk, (h k hk).mp h1⟩, ?_⟩
      rintro m ⟨hm, hpm⟩
      by_contra hlt
      have := h3 m (by omega)
      rw [(h m hm).mpr hpm] at this
      simp at this
    · rintro ⟨⟨h1, h2⟩, h3⟩
      refine ⟨(h k h1).mpr h2, by simpa using h1, ?_⟩
      intro j hj
      cases e : p j with
      | false => rfl
      | true => have := h3 j ⟨by omega, (h j (by omega)).mp e⟩; omega
  · rw [List.find?_range_eq_none]
    constructor
    · rintro h1 m ⟨hm, hpm⟩
      have := h1 m hm
      rw [(h m hm).mpr hpm] at this
      simp at this
    · intro h1 j hj
      cases e : p j with
      | false => rfl
      | true => exact absurd ⟨hj, (h j hj).mp e⟩ (h1 j)

/-- An entry of a table after a range is put into it. -/
theorem putRange_get {α : Type} {n : Nat} (t : Vector α n) (first : Nat) (xs : List α) (d : α) (i : Nat) (hi : i < n) :
    Table.get (Table.putRange t first xs) i d =
      if h : first ≤ i ∧ i < first + xs.length then xs[i - first]'(by omega) else Table.get t i d := by
  induction xs generalizing t first with
  | nil => simp [Table.putRange]
  | cons x xs ih =>
    unfold Table.putRange
    rw [ih]
    by_cases h : first = i
    · subst h
      rw [dif_neg (by omega), dif_pos (by simp), table_get_put_same _ _ _ hi]
      simp
    · rw [table_get_put_other _ _ _ h]
      by_cases h2 : first + 1 ≤ i ∧ i < first + 1 + xs.length
      · rw [dif_pos h2, dif_pos (by simp; omega)]
        have : i - first = (i - (first + 1)) + 1 := by omega
        simp [this]
      · rw [dif_neg h2, dif_neg (by simp; omega)]

/-- An entry of a table after a load: its image within the range, as before elsewhere. -/
theorem loaded_get {α : Type} {n : Nat} (t : Vector α n) (l : Load) (f : List Word → α) (d : α) (i : Nat) (hi : i < n) :
    Table.get (Table.putRange t l.first (l.images.map f)) i d =
      if l.first ≤ i ∧ i < l.first + l.count then
        f ((l.staged.drop ((i - l.first) * l.table.entrySize)).take l.table.entrySize)
      else Table.get t i d := by
  rw [putRange_get _ _ _ _ _ hi]
  have hlen : (l.images.map f).length = l.count := by simp [Load.images, upTo]
  by_cases h : l.first ≤ i ∧ i < l.first + l.count
  · rw [dif_pos (by rw [hlen]; exact h), if_pos h]
    simp [Load.images, upTo]
  · rw [dif_neg (by rw [hlen]; exact h), if_neg h]

end Sys2Proof.Machine
end

