-- ==== Sys2Proof/Laws/Settle.lean ====
section
/-! SUPPORT. What `settle` keeps: a property `P` that each kind of due event keeps, together with a property `Q` that
whatever concludes a step establishes from `P`. -/

namespace Sys2Proof.Machine

/-- A property `P` of the chip that every event of its blocks keeps, and a property `Q` that follows from `P` at every
conclusion. -/
structure Eventful (P Q : Ef24 → Prop) : Prop where
  conclude : ∀ v, P v → P v.conclude
  concluded : ∀ v, P v → Q v.conclude
  motor : ∀ v p m, v.coreRunning = true → P v → P { v with rumble := { v.rumble with playing := p, motor := m } }
  finish : ∀ v, v.coreRunning = true → P v → P (v.withRumble (v.rumble.finish v.ceiling))
  onVoice : ∀ v f i, v.coreRunning = true → P v → P (v.onVoice f i)
  save : ∀ v s, s.buffer = v.save.buffer → s.flags = v.save.flags → P v → P { v with save := s }
  post : ∀ v kind index detail, P v → P (v.post kind index detail)
  asleep : ∀ v, v.chip = some .enteringSleep → P v → P { v with chip := some .asleep }

/-- A property that everything which can fall due keeps, the loss of the last source too. -/
structure Steady (P Q : Ef24 → Prop) : Prop extends Eventful P Q where
  lose : ∀ v, P v → P v.loseRetention

namespace Eventful

variable {P Q : Ef24 → Prop} (h : Eventful P Q)

include h

theorem ending {v : Ef24} (hv : P v) : P v.conclude ∧ Q v.conclude := ⟨h.conclude _ hv, h.concluded _ hv⟩

theorem event {u : Ef24} {due : Bool} {f : Ef24 → Ef24} (hf : u.coreRunning = true → due = true → P u → P (f u))
    (hu : P u ∧ Q u) : P (u.event due f) ∧ Q (u.event due f) := by
  unfold Ef24.event
  split
  · rename_i hd
    rw [Bool.and_eq_true] at hd
    exact h.ending (hf hd.1 hd.2 hu.1)
  · exact hu

theorem endKick {u : Ef24} (hu : P u ∧ Q u) :
    P u.kickEnd ∧ Q u.kickEnd := h.event (fun hr _ hv => h.motor _ _ _ hr hv) hu
theorem coastStop {u : Ef24} (hu : P u ∧ Q u) :
    P u.coastStop ∧ Q u.coastStop := h.event (fun hr _ hv => h.motor _ _ _ hr hv) hu
theorem endBrake {u : Ef24} (hu : P u ∧ Q u) :
    P u.endBrakeDone ∧ Q u.endBrakeDone := h.event (fun hr _ hv => h.motor _ _ _ hr hv) hu

theorem motorEnds {u : Ef24} (hu : P u ∧ Q u) :
    P u.motorEnds ∧ Q u.motorEnds := h.endBrake (h.coastStop (h.endKick hu))

theorem stepEnd {u : Ef24} (hu : P u ∧ Q u) :
    P u.stepEnd ∧ Q u.stepEnd := by
  refine h.event (fun hr _ hv => ?_) hu
  unfold Rumble.nextStep
  split
  · split
    · exact h.motor _ _ _ hr hv
    · exact h.motor _ _ _ hr hv
  · exact h.motor u u.rumble.playing u.rumble.motor hr hv

theorem patternFinished {u : Ef24} (hu : P u ∧ Q u) :
    P u.patternFinished ∧ Q u.patternFinished := h.event (fun hr _ hv => h.finish _ hr hv) hu

theorem primeLimit {u : Ef24} (i : Nat) (hu : P u ∧ Q u) :
    P (u.primeLimit i) ∧ Q (u.primeLimit i) := h.event (fun hr _ hv => h.onVoice _ _ _ hr hv) hu
theorem loopReturn {u : Ef24} (i : Nat) (hu : P u ∧ Q u) :
    P (u.loopReturn i) ∧ Q (u.loopReturn i) := h.event (fun hr _ hv => h.onVoice _ _ _ hr hv) hu
theorem naturalEnd {u : Ef24} (i : Nat) (hu : P u ∧ Q u) :
    P (u.naturalEnd i) ∧ Q (u.naturalEnd i) := h.event (fun hr _ hv => h.onVoice _ _ _ hr hv) hu
theorem rampEnd {u : Ef24} (i : Nat) (hu : P u ∧ Q u) :
    P (u.rampEnd i) ∧ Q (u.rampEnd i) := h.event (fun hr _ hv => h.onVoice _ _ _ hr hv) hu

theorem settleVoice {u : Ef24} (i : Nat) (hu : P u ∧ Q u) :
    P (u.settleVoice i) ∧ Q (u.settleVoice i) :=
  h.rampEnd i (h.naturalEnd i (h.loopReturn i (h.primeLimit i hu)))

theorem settleVoices {u : Ef24} (hu : P u ∧ Q u) :
    P u.settleVoices ∧ Q u.settleVoices := by
  unfold Ef24.settleVoices
  induction voiceNumbers generalizing u with
  | nil => exact hu
  | cons i l ih => exact ih (h.settleVoice i hu)

theorem leaveDraining {u : Ef24} (hu : P u) : P u.leaveDraining := by
  rw [leaveDraining_eq]; exact h.save u _ rfl rfl hu

theorem leaveScanning {u : Ef24} (hu : P u) : P u.leaveScanning := by
  rw [leaveScanning_eq]; exact h.save u _ rfl rfl hu

theorem finishIntent {u : Ef24} (hu : P u) : P u.finishIntent := by
  rw [finishIntent_eq]; exact h.save u _ rfl rfl hu

theorem finishSwitching {u : Ef24} (hu : P u) : P u.finishSwitching := by
  rw [finishSwitching_eq]; exact h.save u _ rfl rfl hu

theorem finishClosing {u : Ef24} (hu : P u) : P u.finishClosing := by
  unfold Ef24.finishClosing
  split
  · split
    · exact h.post _ _ _ _ (h.save u _ rfl rfl hu)
    · exact h.post _ _ _ _ (h.save u _ rfl rfl hu)
  · exact hu

theorem finishSeed {u : Ef24} (hu : P u) : P u.finishSeed := by
  unfold Ef24.finishSeed
  split
  · exact h.post _ _ _ _ (h.save u _ rfl rfl hu)
  · exact hu

theorem finishFormat {u : Ef24} (hu : P u) : P u.finishFormat := by
  unfold Ef24.finishFormat
  split
  · refine h.post _ _ _ _ (h.save u _ ?_ ?_ hu) <;> · dsimp only; rw [emptyRecords_eq]
  · exact hu

theorem finishVerify {u : Ef24} (hu : P u) : P u.finishVerify := by
  unfold Ef24.finishVerify
  split
  · split
    · exact h.post _ _ _ _ (h.save u _ rfl rfl hu)
    · exact h.post _ _ _ _ (h.save u _ rfl rfl hu)
  · exact hu

theorem finishRecovery {u : Ef24} (hu : P u) : P u.finishRecovery :=
  h.save u _ rfl rfl hu

theorem settleSave {u : Ef24} (hu : P u ∧ Q u) :
    P u.settleSave ∧ Q u.settleSave := by
  have h1 :=
    h.event (due := u.save.drainingDue) (f := Ef24.leaveDraining) (fun _ _ hv => h.leaveDraining hv) hu
  have h2 :=
    h.event (due := u.drainingDone.scanDue) (f := Ef24.leaveScanning) (fun _ _ hv => h.leaveScanning hv) h1
  have h3 :=
    h.event (due := u.drainingDone.scanDone.save.intentDue) (f := Ef24.finishIntent) (fun _ _ hv => h.finishIntent hv) h2
  have h4 :=
    h.event (due := u.drainingDone.scanDone.intentDone.save.switchingDue) (f := Ef24.finishSwitching) (fun _ _ hv => h.finishSwitching hv) h3
  have h5 := h.event (due := u.drainingDone.scanDone.intentDone.switchingDone.save.closingDue)
    (fun _ _ hv => h.finishClosing hv) h4
  have h6 := h.event (due := u.drainingDone.scanDone.intentDone.switchingDone.closingDone.save.seedDue)
    (fun _ _ hv => h.finishSeed hv) h5
  have h7 := h.event (due := u.drainingDone.scanDone.intentDone.switchingDone.closingDone.seedDone.save.formatDue)
    (fun _ _ hv => h.finishFormat hv) h6
  have h8 := h.event
    (due := u.drainingDone.scanDone.intentDone.switchingDone.closingDone.seedDone.formatDone.save.verifyDue)
    (fun _ _ hv => h.finishVerify hv) h7
  exact h.event
    (due := u.drainingDone.scanDone.intentDone.switchingDone.closingDone.seedDone.formatDone.verifyDone.save.recoveryDue)
    (fun _ _ hv => h.finishRecovery hv) h8

theorem settleBlocks {u : Ef24} (hu : P u ∧ Q u) :
    P u.settleBlocks ∧ Q u.settleBlocks :=
  h.settleSave (h.settleVoices (h.patternFinished (h.stepEnd (h.motorEnds hu))))

theorem asleepReached {u : Ef24} (hu : P u ∧ Q u) :
    P u.asleepReached ∧ Q u.asleepReached := by
  refine h.event (fun _ hd hv => ?_) hu
  refine h.post _ _ _ _ (h.asleep _ ?_ hv)
  unfold Ef24.sleepDue at hd
  simp only [Bool.and_eq_true, beq_iff_eq] at hd
  exact hd.1.1.1.1.1

end Eventful

namespace Steady

variable {P Q : Ef24 → Prop} (h : Steady P Q)

include h

theorem sourceCheck {u : Ef24} (hu : P u) : P u.sourceCheck := by
  unfold Ef24.sourceCheck
  split
  · exact h.lose _ hu
  · exact hu

/-- What everything that can fall due keeps, `settle` keeps. -/
theorem settle {u : Ef24} (hu : P u ∧ Q u) : P u.settle ∧ Q u.settle :=
  h.ending (h.sourceCheck (h.asleepReached (h.settleBlocks hu)).1)

theorem endStep {u : Ef24} {due : Ef24 → Bool} {finish : Ef24 → Ef24}
    (ha : ∀ v, P v → P v.sequencerAccess) (hf : ∀ v, P v → P (finish v)) (hu : P u ∧ Q u) :
    P (u.endStep due finish) ∧ Q (u.endStep due finish) := by
  unfold Ef24.endStep
  split
  · exact h.ending (hf _ hu.1)
  · split
    · exact h.ending (hf _ (ha _ (h.settle hu).1))
    · exact hu

end Steady

/-! ## Retention (R185; log 28) -/

/-- No event of the blocks touches the SRAM, the capacity strap, the supply, the cell or the retention mark. -/
theorem settleBlocks_backup (u : Ef24) :
    let v := u.settleBlocks.asleepReached
    v.sram = u.sram ∧ v.sramCode = u.sramCode ∧ v.power.supply = u.power.supply ∧ v.power.vbat = u.power.vbat ∧
      v.power.retained = u.power.retained := by
  have h : Eventful (fun v => v.sram = u.sram ∧ v.sramCode = u.sramCode ∧ v.power.supply = u.power.supply ∧
      v.power.vbat = u.power.vbat ∧ v.power.retained = u.power.retained) (fun _ => True) :=
    { conclude := fun v hv => by simpa using hv
      concluded := fun _ _ => trivial
      motor := fun _ _ _ _ hv => hv
      finish := fun v _ hv => by rw [withRumble_eq]; exact hv
      onVoice := fun v f i _ hv => by unfold Ef24.onVoice; rw [withSound_eq]; exact hv
      save := fun _ _ _ _ hv => hv
      post := fun _ _ _ _ hv => hv
      asleep := fun _ _ hv => hv }
  exact (h.asleepReached (h.settleBlocks ⟨⟨rfl, rfl, rfl, rfl, rfl⟩, trivial⟩)).1

/-- Settling a chip that has lost its last source loses retention, and it may be SRAM contents within the strapped capacity;
settling any other keeps both (R185; log 12, log 28). -/
theorem settle_retention (u : Ef24) :
    (u.sourceLost = true → u.settle.power.retained = false ∧ ∃ writes : List (Nat × Word),
      u.settle.sram = u.sram.writeAll writes ∧ ∀ x ∈ writes, x.1 < 512 * Config.sramKiB u.sramCode) ∧
    (u.sourceLost = false → u.settle.power.retained = u.power.retained ∧ u.settle.sram = u.sram) := by
  obtain ⟨hs, hc, hp, hv, hr⟩ := settleBlocks_backup u
  have e : u.settleBlocks.asleepReached.sourceLost = u.sourceLost := by
    unfold Ef24.sourceLost Power.supplied
    rw [hp, hv, hr]
  unfold Ef24.settle Ef24.sourceCheck
  rw [conclude_retained, conclude_sram, e]
  refine ⟨fun h => ?_, fun h => ?_⟩
  · rw [if_pos h]
    refine ⟨rfl, u.settleBlocks.asleepReached.lostWords, ?_, fun x hx => ?_⟩
    · rw [← hs]; rfl
    · rw [← hc]
      simpa using (List.mem_filter.mp hx).2
  · rw [if_neg (by simp [h])]
    exact ⟨hr, hs⟩

end Sys2Proof.Machine
end

