-- ==== Sys2Proof/Laws/Keeps.lean ====
section
/-! SUPPORT. How a property that every step keeps is proved: `Kept P Q` lists what is to be shown of each shared operation, and
`Kept.step` concludes that every step keeps `P` and, at its end, `Q`. -/

namespace Sys2Proof.Machine

/-- A hold timer of the supply that runs when a command comes has its condition. -/
theorem settled_crosses {s : State} {c : SupplyChange} (hm : Hold.supply c ∈ s.settled.power.holds) :
    s.settled.power.crosses c = true := by
  have e : ∀ p : Power, p.crosses c = p.holdRuns (.supply c) := fun _ => rfl
  rw [e]
  unfold State.settled Ef24.settle at hm ⊢
  exact conclude_holds hm

/-- The body of a command's frame. -/
def frameBody : Command → Ef24 → Ef24
  | .statusQuery => Ef24.statusQuery
  | .tableRead => Ef24.tableRead
  | .loadTable => Ef24.loadTable
  | .loadAbort => Ef24.loadAbort
  | .actionRun => Ef24.actionRun
  | .cuePlay => Ef24.cuePlay
  | .voiceStop => Ef24.voiceStop
  | .soundStopAll => Ef24.soundStopAll
  | .soundVolume => Ef24.soundVolume
  | .voiceStatus => Ef24.voiceStatus
  | .rumbleStart => Ef24.rumbleStart
  | .rumbleCut => Ef24.rumbleCut
  | .rumbleEnable => Ef24.rumbleEnable
  | .rumbleLimits => Ef24.rumbleLimits
  | .rumbleStatus => Ef24.rumbleStatus
  | .saveFormat => Ef24.saveFormat
  | .slotSeed => Ef24.slotSeed
  | .slotCommit => Ef24.slotCommit
  | .slotDiscard => Ef24.slotDiscard
  | .slotVerify => Ef24.slotVerify
  | .slotInfo => Ef24.slotInfo
  | .flagTest => (fun u => u.singleFlag .test)
  | .flagSet => (fun u => u.singleFlag .set)
  | .flagClear => (fun u => u.singleFlag .clear)
  | .flagToggle => (fun u => u.singleFlag .toggle)
  | .flagScan => Ef24.flagScan
  | .flagClearRange => Ef24.flagClearRange
  | .clockSet => Ef24.clockSet
  | .clockRead => Ef24.clockRead
  | .dayStartSet => Ef24.dayStartSet
  | .gameDayRead => Ef24.gameDayRead
  | .advanceCapSet => Ef24.advanceCapSet
  | .timerRun => Ef24.timerRun
  | .timerStop => Ef24.timerStop
  | .timerClear => Ef24.timerClear
  | .timerRead => Ef24.timerRead
  | .eventTake => Ef24.eventTake
  | .eventMaskSet => Ef24.eventMaskSet
  | .sleep => Ef24.sleep
  | .wake => Ef24.wake
  | .supplyRead => Ef24.supplyRead

/-- A property `P` of the chip that everything a command can do keeps, with a property `Q` that a conclusion gives from it. -/
structure Kept (P Q : Ef24 → Prop) : Prop extends Steady P Q where
  respond : ∀ u status results, P u → P (u.respond status results)
  frame : ∀ c u, u.executes c = true → P u → P (frameBody c u)
  consoleRead : ∀ u addr, P u → P (u.consoleRead addr)
  consoleWrite : ∀ u addr value, P u → P (u.consoleWrite addr value)
  fetchWord : ∀ u, u.coreRunning = true → P u → P u.fetchWord
  fetchComplete : ∀ u, u.coreRunning = true → P u → P u.fetchComplete
  checkLoad : ∀ u, u.coreRunning = true → P u → P u.checkLoad
  outputSample : ∀ u, u.coreRunning = true → P u → P u.outputSample
  tick : ∀ u, u.coreRunning = true → P u → P u.tick
  drainOne : ∀ u, P u → P u.drainOne
  flagAccess : ∀ u, P u → P u.flagAccess
  sequencerAccess : ∀ u, P u → P u.sequencerAccess
  crystalSecond : ∀ u, P u → P u.crystalSecond
  hundredth : ∀ u, P u → P u.hundredth
  setVcc : ∀ u millivolts, P u → P (u.setVcc millivolts)
  changeSupply : ∀ u c, u.power.crosses c = true → P u → P (u.changeSupply c)
  assertReset : ∀ u, P u → P u.assertReset
  releaseReset : ∀ u, P u → P u.releaseReset
  setCell : ∀ u level, P u → P (u.setCell level)
  changeCoinLow : ∀ u, P u → P u.changeCoinLow

namespace Kept

variable {P Q : Ef24 → Prop} (h : Kept P Q)

include h

theorem answering {s t : State} {v : Ef24} (hv : P v) (he : s.answering v = .next t) :
    P t.toEf24 ∧ Q t.toEf24 := by
  unfold State.answering at he
  cases he
  exact h.ending hv

omit h in
theorem becoming {s t : State} {v : Ef24} (hv : P v ∧ Q v) (he : s.becoming v = .next t) :
    P t.toEf24 ∧ Q t.toEf24 := by
  unfold State.becoming at he
  cases he
  exact hv

theorem execute {u : Ef24} (c : Command) (hu : P u) : P (u.execute c (frameBody c)) := by
  unfold Ef24.execute
  split
  · exact hu
  · split
    · exact h.respond _ _ _ hu
    · split
      · exact h.respond _ _ _ hu
      · rename_i hc _ _
        exact h.frame c u (by simpa using hc) hu

theorem runFrame {s t : State} (c : Command) (hs : P s.settled) (he : runFrame c (frameBody c) s = .next t) :
    P t.toEf24 ∧ Q t.toEf24 :=
  h.answering (h.execute c hs) he

omit h in
theorem whileRunning {u : Ef24} {f : Ef24 → Ef24} (hf : u.coreRunning = true → P u → P (f u)) (hu : P u) :
    P (u.whileRunning f) := by
  unfold Ef24.whileRunning
  split
  · rename_i hr; exact hf hr hu
  · exact hu

omit h in
theorem access {u : Ef24} {c : Claim} {f : Ef24 → Ef24} (hf : P u → P (f u)) (hu : P u) : P (u.access c f) := by
  unfold Ef24.access
  split
  · exact hf hu
  · exact hu

theorem badOpcode {u : Ef24} (hu : P u) : P u.answerBadOpcode := by
  unfold Ef24.answerBadOpcode
  split
  · exact h.respond _ _ _ hu
  · exact hu

theorem primeLimitRow {u : Ef24} (i : Nat) (hr : u.coreRunning = true) (hu : P u) : P (u.reachPrimeLimit i) := by
  unfold Ef24.reachPrimeLimit
  split
  · exact h.onVoice _ _ _ hr hu
  · exact hu

theorem supplyChange {s : State} (c : SupplyChange) (hs : P s.settled) : P (s.settled.supplyChange c) := by
  unfold Ef24.supplyChange
  split
  · rename_i hc
    have hm : Hold.supply c ∈ s.settled.power.holds := by simpa using hc
    exact h.changeSupply _ _ (settled_crosses hm) hs
  · exact hs

theorem retentionLoss {u : Ef24} (hu : P u) : P u.retentionLoss := by
  unfold Ef24.retentionLoss
  split
  · exact h.lose _ hu
  · exact hu

/-- A command keeps what everything it can do keeps, and a conclusion's property with it. -/
theorem exec {c : Instr} {s t : State} (hs : P s.toEf24 ∧ Q s.toEf24) (he : exec c s = .next t) :
    P t.toEf24 ∧ Q t.toEf24 := by
  have hu : P s.settled := (h.settle hs).1
  cases c with
  | romRead addr => exact h.answering (h.consoleRead _ addr hu) he
  | bankSelect addr value => exact h.answering (h.consoleWrite _ addr value hu) he
  | saveStageRead addr => exact h.answering (h.consoleRead _ addr hu) he
  | saveStageWrite addr value => exact h.answering (h.consoleWrite _ addr value hu) he
  | saveLiveRead addr => exact h.answering (h.consoleRead _ addr hu) he
  | flagsRead addr => exact h.answering (h.consoleRead _ addr hu) he
  | triggerWrite addr value => exact h.answering (h.consoleWrite _ addr value hu) he
  | ignoredWrite addr value => exact h.answering (h.consoleWrite _ addr value hu) he
  | dataWrite addr value => exact h.answering (h.consoleWrite _ addr value hu) he
  | responseRead addr => exact h.answering (h.consoleRead _ addr hu) he
  | statusRead addr => exact h.answering (h.consoleRead _ addr hu) he
  | badOpcode => exact h.answering (h.badOpcode hu) he
  | statusQuery => exact h.runFrame .statusQuery hu he
  | tableRead => exact h.runFrame .tableRead hu he
  | loadTable => exact h.runFrame .loadTable hu he
  | loadAbort => exact h.runFrame .loadAbort hu he
  | actionRun => exact h.runFrame .actionRun hu he
  | cuePlay => exact h.runFrame .cuePlay hu he
  | voiceStop => exact h.runFrame .voiceStop hu he
  | soundStopAll => exact h.runFrame .soundStopAll hu he
  | soundVolume => exact h.runFrame .soundVolume hu he
  | voiceStatus => exact h.runFrame .voiceStatus hu he
  | rumbleStart => exact h.runFrame .rumbleStart hu he
  | rumbleCut => exact h.runFrame .rumbleCut hu he
  | rumbleEnable => exact h.runFrame .rumbleEnable hu he
  | rumbleLimits => exact h.runFrame .rumbleLimits hu he
  | rumbleStatus => exact h.runFrame .rumbleStatus hu he
  | saveFormat => exact h.runFrame .saveFormat hu he
  | slotSeed => exact h.runFrame .slotSeed hu he
  | slotCommit => exact h.runFrame .slotCommit hu he
  | slotDiscard => exact h.runFrame .slotDiscard hu he
  | slotVerify => exact h.runFrame .slotVerify hu he
  | slotInfo => exact h.runFrame .slotInfo hu he
  | flagTest => exact h.runFrame .flagTest hu he
  | flagSet => exact h.runFrame .flagSet hu he
  | flagClear => exact h.runFrame .flagClear hu he
  | flagToggle => exact h.runFrame .flagToggle hu he
  | flagScan => exact h.runFrame .flagScan hu he
  | flagClearRange => exact h.runFrame .flagClearRange hu he
  | clockSet => exact h.runFrame .clockSet hu he
  | clockRead => exact h.runFrame .clockRead hu he
  | dayStartSet => exact h.runFrame .dayStartSet hu he
  | gameDayRead => exact h.runFrame .gameDayRead hu he
  | advanceCapSet => exact h.runFrame .advanceCapSet hu he
  | timerRun => exact h.runFrame .timerRun hu he
  | timerStop => exact h.runFrame .timerStop hu he
  | timerClear => exact h.runFrame .timerClear hu he
  | timerRead => exact h.runFrame .timerRead hu he
  | eventTake => exact h.runFrame .eventTake hu he
  | eventMaskSet => exact h.runFrame .eventMaskSet hu he
  | sleep => exact h.runFrame .sleep hu he
  | wake => exact h.runFrame .wake hu he
  | supplyRead => exact h.runFrame .supplyRead hu he
  | lineFetchWord => exact h.answering (whileRunning (h.fetchWord _) hu) he
  | lineFetchComplete => exact h.answering (whileRunning (h.fetchComplete _) hu) he
  | tableCheck => exact h.answering (whileRunning (h.checkLoad _) hu) he
  | outputSample => exact h.answering (whileRunning (h.outputSample _) hu) he
  | primeLimit voice =>
    rw [exec_primeLimit] at he
    have hp : P (s.settled.whileRunning (·.reachPrimeLimit voice)) :=
      whileRunning (fun hr hv => h.primeLimitRow voice hr hv) hu
    exact h.answering hp he
  | loopReturn voice => exact becoming (h.loopReturn voice hs) he
  | cueNaturalEnd voice => exact becoming (h.naturalEnd voice hs) he
  | rampEnd voice => exact becoming (h.rampEnd voice hs) he
  | tick => exact h.answering (whileRunning (h.tick _) hu) he
  | stepEnd => exact becoming (h.stepEnd (h.motorEnds hs)) he
  | patternFinished => exact becoming (h.patternFinished (h.motorEnds hs)) he
  | kickEnd => exact becoming (h.endKick hs) he
  | coastStop => exact becoming (h.coastStop hs) he
  | endBrakeDone => exact becoming (h.endBrake hs) he
  | postedWriteDrain => exact h.answering (access (h.drainOne _) hu) he
  | flagWordAccess => exact h.answering (access (h.flagAccess _) hu) he
  | sequencerAccess => exact h.answering (access (h.sequencerAccess _) hu) he
  | drainingDone => exact becoming (h.event (fun _ _ hv => h.leaveDraining hv) hs) he
  | scanDone => exact becoming (h.endStep (fun v => h.sequencerAccess v) (fun _ hv => h.leaveScanning hv) hs) he
  | intentDone => exact becoming (h.endStep (fun v => h.sequencerAccess v) (fun _ hv => h.finishIntent hv) hs) he
  | switchingDone => exact becoming (h.endStep (fun v => h.sequencerAccess v) (fun _ hv => h.finishSwitching hv) hs) he
  | closingDone => exact becoming (h.endStep (fun v => h.sequencerAccess v) (fun _ hv => h.finishClosing hv) hs) he
  | seedDone => exact becoming (h.endStep (fun v => h.sequencerAccess v) (fun _ hv => h.finishSeed hv) hs) he
  | formatDone => exact becoming (h.endStep (fun v => h.sequencerAccess v) (fun _ hv => h.finishFormat hv) hs) he
  | verifyDone => exact becoming (h.endStep (fun v => h.sequencerAccess v) (fun _ hv => h.finishVerify hv) hs) he
  | recoveryDone => exact becoming (h.endStep (fun v => h.sequencerAccess v) (fun _ hv => h.finishRecovery hv) hs) he
  | asleepReached => exact becoming (h.asleepReached (h.settleBlocks hs)) he
  | calendarSecond => exact h.answering (h.crystalSecond _ hu) he
  | playTimerHundredth => exact h.answering (h.hundredth _ hu) he
  | vccCrossing millivolts =>
    rw [exec_vccCrossing] at he
    exact h.answering (h.setVcc _ millivolts hu) he
  | supplyStateChange change => exact h.answering (h.supplyChange change hu) he
  | crstAssert => exact h.answering (h.assertReset _ hu) he
  | crstRelease => exact h.answering (h.releaseReset _ hu) he
  | vbatChange millivolts => exact h.answering (h.setCell _ _ hu) he
  | coinCellLowChange => exact h.answering (h.changeCoinLow _ hu) he
  | retentionLoss => exact h.answering (h.retentionLoss hu) he
  | commandWrite addr value => exact h.answering (h.consoleWrite _ addr value hu) he

/-- A step keeps what everything a command can do keeps, and a conclusion's property with it. -/
theorem step {s t : State} (hs : P s.toEf24 ∧ Q s.toEf24) (he : step s = .next t) :
    P t.toEf24 ∧ Q t.toEf24 := by
  unfold Machine.step at he
  split at he
  · cases he
    exact hs
  · rename_i rest _
    exact h.exec (s := { s with pending := rest }) hs he

end Kept

end Sys2Proof.Machine
end

