-- ==== Sys2Proof/Laws/Memory.lean ====
section
/-! SUPPORT. Memories: what a write changes, and that every write keeps the canonical form. -/

namespace Sys2Proof.Machine

namespace Memory

/-- Membership after a cell is put. -/
theorem mem_cell {x : Nat × Word} {a : Nat} {w : Word} {m : Memory} (h : x ∈ cell a w m) :
    (x = (a, w) ∧ w ≠ blank) ∨ x ∈ m := by
  unfold cell at h
  split at h
  · exact Or.inr h
  · rename_i hw
    rcases List.mem_cons.mp h with h | h
    · exact Or.inl ⟨h, hw⟩
    · exact Or.inr h

/-- A cell after a write is the cell written or a cell of before. -/
theorem mem_write {x : Nat × Word} {a : Nat} {w : Word} {m : Memory} (h : x ∈ m.write a w) :
    (x = (a, w) ∧ w ≠ blank) ∨ x ∈ m := by
  induction m with
  | nil => exact mem_cell h
  | cons c m ih =>
    unfold write at h
    split at h
    · exact mem_cell h
    · split at h
      · rcases mem_cell h with h | h
        · exact Or.inl h
        · exact Or.inr (List.mem_cons_of_mem _ h)
      · rcases List.mem_cons.mp h with h | h
        · exact Or.inr (h ▸ List.mem_cons_self)
        · rcases ih h with h | h
          · exact Or.inl h
          · exact Or.inr (List.mem_cons_of_mem _ h)

/-- The empty memory is in canonical form. -/
theorem wf_nil : wf [] := ⟨List.Pairwise.nil, fun _ h => by cases h⟩

/-- A write keeps the canonical form. -/
theorem write_wf {m : Memory} (h : m.wf) (a : Nat) (w : Word) : (m.write a w).wf := by
  induction m with
  | nil =>
    unfold write cell
    split
    · exact wf_nil
    · rename_i hw
      exact ⟨List.pairwise_singleton _ _, by simpa using hw⟩
  | cons c m ih =>
    obtain ⟨hp, hb⟩ := h
    rw [List.pairwise_cons] at hp
    have hm : wf m := ⟨hp.2, fun x hx => hb x (List.mem_cons_of_mem _ hx)⟩
    unfold write
    split
    · rename_i hlt
      unfold cell
      split
      · exact ⟨List.pairwise_cons.mpr hp, hb⟩
      · rename_i hw
        refine ⟨List.pairwise_cons.mpr ⟨fun x hx => ?_, List.pairwise_cons.mpr hp⟩, fun x hx => ?_⟩
        · rcases List.mem_cons.mp hx with rfl | hx
          · exact hlt
          · exact Nat.lt_trans hlt (hp.1 x hx)
        · rcases List.mem_cons.mp hx with rfl | hx
          · exact hw
          · exact hb x hx
    · split
      · rename_i heq
        unfold cell
        split
        · exact hm
        · rename_i hw
          refine ⟨List.pairwise_cons.mpr ⟨fun x hx => heq ▸ hp.1 x hx, hp.2⟩, fun x hx => ?_⟩
          rcases List.mem_cons.mp hx with rfl | hx
          · exact hw
          · exact hm.2 x hx
      · rename_i hge hne
        have hw := ih hm
        refine ⟨List.pairwise_cons.mpr ⟨fun x hx => ?_, hw.1⟩, fun x hx => ?_⟩
        · rcases mem_write hx with ⟨rfl, _⟩ | hx
          · show c.1 < a
            omega
          · exact hp.1 x hx
        · rcases List.mem_cons.mp hx with rfl | hx
          · exact hb _ List.mem_cons_self
          · exact hw.2 x hx

/-- Several writes keep the canonical form. -/
theorem writeAll_wf {m : Memory} (h : m.wf) (ws : List (Nat × Word)) : (m.writeAll ws).wf := by
  induction ws generalizing m with
  | nil => exact h
  | cons c ws ih => exact ih (write_wf h c.1 c.2)

/-- A put cell does not change what another address reads as. -/
theorem read_cell_other {m : Memory} {a b : Nat} (h : a ≠ b) (w : Word) : read (cell a w m) b = read m b := by
  unfold cell
  split
  · rfl
  · simp [read, h]

/-- A write does not change what another address reads as. -/
theorem read_write_other (m : Memory) {a b : Nat} (h : a ≠ b) (w : Word) : (m.write a w).read b = m.read b := by
  induction m with
  | nil => exact read_cell_other h w
  | cons c m ih =>
    unfold write
    split
    · exact read_cell_other h w
    · split
      · rename_i heq
        rw [read_cell_other h w]
        simp [read, show c.1 ≠ b from heq ▸ h]
      · simp [read, ih]

/-- An address below every listed one reads as blank. -/
theorem read_below {m : Memory} {a : Nat} (h : ∀ x ∈ m, a < x.1) : m.read a = blank := by
  induction m with
  | nil => rfl
  | cons c m ih =>
    have hc := h c List.mem_cons_self
    simp [read, show c.1 ≠ a by omega, ih (fun x hx => h x (List.mem_cons_of_mem _ hx))]

/-- A put cell reads as its word, if its address lies below every other. -/
theorem read_cell_same {m : Memory} {a : Nat} (h : ∀ x ∈ m, a < x.1) (w : Word) : read (cell a w m) a = w := by
  unfold cell
  split
  · rename_i hw; rw [read_below h, hw]
  · simp [read]

/-- A written address reads as the word written. -/
theorem read_write_same {m : Memory} (h : m.wf) (a : Nat) (w : Word) : (m.write a w).read a = w := by
  induction m with
  | nil => exact read_cell_same (by simp) w
  | cons c m ih =>
    obtain ⟨hp, hb⟩ := h
    rw [List.pairwise_cons] at hp
    have hm : wf m := ⟨hp.2, fun x hx => hb x (List.mem_cons_of_mem _ hx)⟩
    unfold write
    split
    · rename_i hlt
      refine read_cell_same (fun x hx => ?_) w
      rcases List.mem_cons.mp hx with rfl | hx
      · exact hlt
      · exact Nat.lt_trans hlt (hp.1 x hx)
    · split
      · rename_i heq
        exact read_cell_same (fun x hx => heq ▸ hp.1 x hx) w
      · rename_i hne
        simp [read, show c.1 ≠ a from fun h => hne h.symm, ih hm]

/-- Reading an address that none of the writes names. -/
theorem read_writeAll_other {a : Nat} (ws : List (Nat × Word)) : ∀ m : Memory, (∀ x ∈ ws, x.1 ≠ a) →
    (m.writeAll ws).read a = m.read a := by
  induction ws with
  | nil => exact fun _ _ => rfl
  | cons c ws ih =>
    intro m h
    rw [writeAll, ih _ (fun x hx => h x (List.mem_cons_of_mem _ hx)), read_write_other _ (h c List.mem_cons_self)]

/-- Reading back a run of words written to different addresses. -/
theorem map_read_writeAll_zip (addresses : List Nat) : ∀ (ws : List Word) (m : Memory), m.wf → addresses.Nodup →
    addresses.length = ws.length → addresses.map (m.writeAll (addresses.zip ws)).read = ws := by
  induction addresses with
  | nil => intro ws m _ _ h; cases ws with
    | nil => rfl
    | cons => simp at h
  | cons a as ih =>
    intro ws m hm hd hl
    cases ws with
    | nil => simp at hl
    | cons w ws =>
      rw [List.nodup_cons] at hd
      have hother : ∀ x ∈ as.zip ws, x.1 ≠ a := fun x hx h => hd.1 (h ▸ (List.of_mem_zip hx).1)
      rw [List.zip_cons_cons, List.map_cons, Memory.writeAll, read_writeAll_other _ _ hother, read_write_same hm,
        ih ws _ (write_wf hm a w) hd.2 (by simpa using hl)]

/-- Writing a list of words, then another. -/
theorem writeAll_append (xs ys : List (Nat × Word)) : ∀ m : Memory,
    m.writeAll (xs ++ ys) = (m.writeAll xs).writeAll ys := by
  induction xs with
  | nil => exact fun _ => rfl
  | cons x xs ih => exact fun m => ih _

end Memory

end Sys2Proof.Machine
end

