-- ==== Sys2Proof/Laws/MotorEnds.lean ====
section
/-! SUPPORT. The motor's own ends before a step's end (R92, R94, R95): once made, none is due, and none is due after the step's
end either. -/

namespace Sys2Proof.Machine

/-- No end of the motor's own is due. -/
def Rumble.noMotorEnd (r : Rumble) : Prop := r.kickEndDue = false ∧ r.coastStopDue = false ∧ r.endBrakeDue = false

/-- Where no end is due, none happens. -/
theorem motorEnds_of_noMotorEnd {u : Ef24} (h : u.rumble.noMotorEnd) : u.motorEnds = u := by
  obtain ⟨h1, h2, h3⟩ := h
  unfold Ef24.motorEnds
  rw [show u.kickEnd = u from event_not_due _ h1, show u.coastStop = u from event_not_due _ h2]
  exact event_not_due _ h3

/-- A motor whose counts have not run out, whatever its strength. -/
theorem noMotorEnd_of {r : Rumble} (hk : r.motor.state = .kick → r.motor.kickLeft ≠ 0)
    (hc : r.motor.state = .coasting → r.motor.coastCount < 16)
    (hb : r.motor.state = .braking → r.motor.brakeLeft = 0 → r.playing ≠ none) : r.noMotorEnd := by
  refine ⟨?_, ?_, ?_⟩
  · simpa [Rumble.kickEndDue] using hk
  · simpa [Rumble.coastStopDue] using hc
  · unfold Rumble.endBrakeDue
    cases h : r.playing with
    | none => simpa [h] using hb
    | some p => simp

/-- What a change of the Drive Ceiling can make of the motor. -/
theorem Motor.limit_cases (m : Motor) (s : PatternStep) (ceiling : Nat) :
    m.limit s ceiling = m ∨ m.limit s ceiling = m.startKick ∨ m.limit s ceiling = m.drive ∨ m.limit s ceiling = m.coast := by
  unfold Motor.limit
  split
  · split <;> cases m.state <;> simp
  · simp

/-- What follows at once makes no end due. -/
theorem conclude_noMotorEnd {u : Ef24} (h : u.rumble.noMotorEnd) : u.conclude.rumble.noMotorEnd := by
  by_cases hr : u.coreRunning = true
  · rw [conclude_rumble_follow hr]
    unfold Rumble.follow
    cases u.rumble.stepInHand with
    | none => exact h
    | some x =>
      rcases Motor.limit_cases u.rumble.motor x u.ceiling with e | e | e | e
      · simp only [e]; exact h
      all_goals
        simp only [e]
        apply noMotorEnd_of <;> simp [Motor.startKick, Motor.drive, Motor.coast]
  · rw [conclude_rumble_held (by simpa using hr)]; exact h

/-- A motor stopped or driving has no end due. -/
theorem event_noMotorEnd {u : Ef24} {due : Bool} {m : Motor} (hr : u.coreRunning = true) (hd : due = true)
    (hm : m.state = .stopped ∨ m.state = .driving) :
    (u.event due (fun v => { v with rumble := { u.rumble with motor := m } })).rumble.noMotorEnd := by
  rw [event_due _ hr hd]
  apply conclude_noMotorEnd
  rcases hm with hm | hm <;> apply noMotorEnd_of <;> simp [hm]

/-- While the core runs, the ends made leave none due. -/
theorem motorEnds_noMotorEnd {u : Ef24} (hr : u.coreRunning = true) : u.motorEnds.rumble.noMotorEnd := by
  by_cases h1 : u.rumble.kickEndDue = true
  · have h : u.kickEnd.rumble.noMotorEnd := event_noMotorEnd hr h1 (.inr rfl)
    have e : u.motorEnds = u.kickEnd := by
      have := motorEnds_of_noMotorEnd h
      unfold Ef24.motorEnds at this ⊢
      rwa [show u.kickEnd.kickEnd = u.kickEnd from event_not_due _ h.1] at this
    rw [e]; exact h
  rw [Bool.not_eq_true] at h1
  have e1 : u.kickEnd = u := event_not_due _ h1
  by_cases h2 : u.rumble.coastStopDue = true
  · have h : u.coastStop.rumble.noMotorEnd := event_noMotorEnd hr h2 (.inl rfl)
    unfold Ef24.motorEnds
    rw [e1, show u.coastStop.endBrakeDone = u.coastStop from event_not_due _ h.2.2]
    exact h
  rw [Bool.not_eq_true] at h2
  have e2 : u.coastStop = u := event_not_due _ h2
  unfold Ef24.motorEnds
  rw [e1, e2]
  by_cases h3 : u.rumble.endBrakeDue = true
  · exact event_noMotorEnd hr h3 (.inl rfl)
  rw [Bool.not_eq_true] at h3
  rw [show u.endBrakeDone = u from event_not_due _ h3]
  exact ⟨h1, h2, h3⟩

/-- A step that begins leaves a motor without an end due. -/
theorem goTo_noMotorEnd {r : Rumble} (h : r.noMotorEnd) (p : Playing) (step : Nat) (left : Option Nat) (ceiling : Nat) :
    (r.goTo p step left ceiling).noMotorEnd := by
  obtain ⟨h1, h2, -⟩ := h
  simp only [Rumble.kickEndDue, Rumble.coastStopDue, decide_eq_false_iff_not] at h1 h2
  unfold Rumble.goTo Motor.begin
  apply noMotorEnd_of
  all_goals
    dsimp only
    split
    · simp [Motor.brake]
    · split <;> cases hs : r.motor.state <;> simp_all [Motor.startKick, Motor.drive, Motor.coast, Motor.stop]

/-- After the step's end no end of the motor's own is due. -/
theorem stepEnd_motorEnds (u : Ef24) : u.motorEnds.stepEnd.motorEnds = u.motorEnds.stepEnd := by
  by_cases hr : u.coreRunning = true
  · have h := motorEnds_noMotorEnd hr
    apply motorEnds_of_noMotorEnd
    generalize u.motorEnds = v at h
    unfold Ef24.stepEnd Ef24.event
    split
    · apply conclude_noMotorEnd
      show (v.rumble.nextStep v.ceiling).noMotorEnd
      unfold Rumble.nextStep
      split
      · split
        · exact goTo_noMotorEnd h _ _ _ _
        · exact goTo_noMotorEnd h _ _ _ _
      · exact h
    · exact h
  · rw [Bool.not_eq_true] at hr
    have held : ∀ v : Ef24, v.coreRunning = false → v.motorEnds = v := fun v hv => by
      unfold Ef24.motorEnds
      rw [show v.kickEnd = v from event_held _ _ hv, show v.coastStop = v from event_held _ _ hv]
      exact event_held _ _ hv
    rw [held u hr, show u.stepEnd = u from event_held _ _ hr, held u hr]

end Sys2Proof.Machine
end

