-- ==== Sys2Proof/Laws/PortSpecs.lean ====
section
/-! SUPPORT. What the Fetch Arbiter's choice gives: of the requesters in their order, the first with the fewest buffered
words. -/

namespace Sys2Proof.Machine

/-- The winner has fewer words than every requester before it and no more than any after it (R26). -/
theorem betterRequester_fold (u : Ef24) (l1 l2 : List Requester) (w : Requester)
    (h1 : ∀ r ∈ l1, u.bufferedWords w < u.bufferedWords r) (h2 : ∀ r ∈ l2, u.bufferedWords w ≤ u.bufferedWords r) :
    (l1 ++ w :: l2).foldl u.betterRequester none = some w := by
  have A : ∀ (l : List Requester) (b : Option Requester), (∀ r, b = some r → u.bufferedWords w < u.bufferedWords r) →
      (∀ r ∈ l, u.bufferedWords w < u.bufferedWords r) →
      ∀ r, l.foldl u.betterRequester b = some r → u.bufferedWords w < u.bufferedWords r := by
    intro l
    induction l with
    | nil => intro b hb _ r hr; exact hb r hr
    | cons a l ih =>
      intro b hb hl r hr
      rw [List.foldl_cons] at hr
      refine ih _ ?_ (fun r hr => hl r (by simp [hr])) r hr
      intro x hx
      cases b with
      | none => simp [Ef24.betterRequester] at hx; subst hx; exact hl _ (by simp)
      | some b =>
        simp only [Ef24.betterRequester] at hx
        split at hx <;> cases hx
        · exact hl _ (by simp)
        · exact hb _ rfl
  have B : ∀ (l : List Requester), (∀ r ∈ l, u.bufferedWords w ≤ u.bufferedWords r) →
      l.foldl u.betterRequester (some w) = some w := by
    intro l
    induction l with
    | nil => intro _; rfl
    | cons a l ih =>
      intro hl
      rw [List.foldl_cons]
      have : u.betterRequester (some w) a = some w := by
        simp only [Ef24.betterRequester]; rw [if_neg]; have := hl a (by simp); omega
      rw [this]; exact ih (fun r hr => hl r (by simp [hr]))
  rw [List.foldl_append, List.foldl_cons]
  have : u.betterRequester (l1.foldl u.betterRequester none) w = some w := by
    cases h : l1.foldl u.betterRequester none with
    | none => rfl
    | some b =>
      have := A l1 none (by simp) h1 b h
      simp [Ef24.betterRequester, this]
  rw [this]; exact B l2 h2

/-- A filter of a list around an element it keeps. -/
theorem filter_split (p : Requester → Bool) (l1 l2 : List Requester) (w : Requester) (hp : p w = true) :
    (l1 ++ w :: l2).filter p = l1.filter p ++ w :: l2.filter p := by simp [hp]

/-- The requesters around a voice. -/
theorem requesters_split (i : Nat) (hi : i < 6) :
    requesters = (List.range i).map Requester.voice ++ Requester.voice i ::
      ((List.range' (i + 1) (5 - i)).map Requester.voice ++ [.loader]) := by
  interval_cases i <;> rfl

end Sys2Proof.Machine
end

