-- ==== Sys2Proof/Laws/RumbleSpecs.lean ====
section
/-! SUPPORT. What the Rumble Drive's shared operations give: the queue joined, the lowest priority, the latest arrival, a
cut's post, a request submitted. -/

namespace Sys2Proof.Machine

/-- A request joins behind every request of its priority or above (R91). -/
theorem joinQueue_eq (q : Request) (queue : List Request) :
    joinQueue q queue = queue.takeWhile (fun x => decide (q.priority ≤ x.priority)) ++
      q :: queue.dropWhile (fun x => decide (q.priority ≤ x.priority)) := by
  induction queue with
  | nil => rfl
  | cons a l ih =>
    unfold joinQueue
    by_cases h : q.priority ≤ a.priority
    · simp [h, ih]
    · simp [h]

/-- The queue after a request has joined. -/
theorem mem_joinQueue (q : Request) (queue : List Request) (x : Request) :
    x ∈ joinQueue q queue ↔ x = q ∨ x ∈ queue := by
  induction queue with
  | nil => simp [joinQueue]
  | cons a l ih =>
    unfold joinQueue
    split
    · simp only [List.mem_cons, ih]; tauto
    · simp only [List.mem_cons]

/-- The queue stays in order of priority (R91). -/
theorem joinQueue_sorted (q : Request) (queue : List Request) (h : queue.Pairwise (fun x y => y.priority ≤ x.priority)) :
    (joinQueue q queue).Pairwise (fun x y => y.priority ≤ x.priority) := by
  induction queue with
  | nil => simp [joinQueue]
  | cons a l ih =>
    unfold joinQueue
    rw [List.pairwise_cons] at h
    split
    · rename_i hq
      rw [List.pairwise_cons]
      refine ⟨?_, ih h.2⟩
      intro x hx
      rcases (mem_joinQueue q l x).mp hx with rfl | hx
      · exact hq
      · exact h.1 x hx
    · rename_i hq
      rw [List.pairwise_cons]
      refine ⟨?_, List.pairwise_cons.mpr h⟩
      intro x hx
      rcases List.mem_cons.mp hx with rfl | hx
      · omega
      · have := h.1 x hx; omega

/-- The lowest priority is below every other and is one of them. -/
theorem lowestPriority_fold (l : List Request) (m : Nat) :
    l.foldl (fun m x => min m x.priority) m ≤ m ∧ (∀ x ∈ l, l.foldl (fun m x => min m x.priority) m ≤ x.priority) ∧
      (l.foldl (fun m x => min m x.priority) m = m ∨ ∃ x ∈ l, x.priority = l.foldl (fun m x => min m x.priority) m) := by
  induction l generalizing m with
  | nil => simp
  | cons a l ih =>
    rw [List.foldl_cons]
    obtain ⟨h1, h2, h3⟩ := ih (min m a.priority)
    refine ⟨by omega, ?_, ?_⟩
    · intro x hx
      rcases List.mem_cons.mp hx with rfl | hx
      · omega
      · exact h2 x hx
    · rcases h3 with h3 | ⟨x, hx, h3⟩
      · by_cases h : a.priority ≤ m
        · right; exact ⟨a, by simp, by rw [h3]; omega⟩
        · left; rw [h3]; omega
      · right; exact ⟨x, by simp [hx], h3⟩

/-- The latest arrival is one of the requests and none arrived later. -/
theorem laterArrival_fold (l : List Request) (b : Option Request) (hne : l ≠ [] ∨ b ≠ none) :
    ∃ d, l.foldl laterArrival b = some d ∧ (d ∈ l ∨ b = some d) ∧
      ∀ x, (x ∈ l ∨ b = some x) → x.arrival ≤ d.arrival := by
  induction l generalizing b with
  | nil =>
    cases b with
    | none => simp at hne
    | some b => exact ⟨b, rfl, by simp, by simp⟩
  | cons a l ih =>
    rw [List.foldl_cons]
    cases b with
    | none =>
      obtain ⟨d, h1, h2, h3⟩ := ih (some a) (by simp)
      refine ⟨d, h1, ?_, ?_⟩
      · rcases h2 with h2 | h2 <;> simp_all
      · rintro x (hx | hx)
        · rcases List.mem_cons.mp hx with rfl | hx
          · exact h3 _ (by simp)
          · exact h3 _ (Or.inl hx)
        · cases hx
    | some b =>
      by_cases h : b.arrival ≤ a.arrival
      · have e : laterArrival (some b) a = some a := by simp [laterArrival, h]
        rw [e]
        obtain ⟨d, h1, h2, h3⟩ := ih (some a) (by simp)
        have ha := h3 a (by simp)
        refine ⟨d, h1, ?_, ?_⟩
        · rcases h2 with h2 | h2 <;> simp_all
        · rintro x (hx | hx)
          · rcases List.mem_cons.mp hx with rfl | hx
            · exact ha
            · exact h3 _ (Or.inl hx)
          · cases hx; omega
      · have e : laterArrival (some b) a = some b := by simp [laterArrival, h]
        rw [e]
        obtain ⟨d, h1, h2, h3⟩ := ih (some b) (by simp)
        have hb := h3 b (by simp)
        refine ⟨d, h1, ?_, ?_⟩
        · rcases h2 with h2 | h2 <;> simp_all
        · rintro x (hx | hx)
          · rcases List.mem_cons.mp hx with rfl | hx
            · omega
            · exact h3 _ (Or.inl hx)
          · cases hx; exact hb

/-- The RUMBLE_CUT of a request that is removed (R93, section 13.3). -/
theorem cutPost_eq (q : Request) (c : CutCause) (b : Bool) :
    q.cutPost c b = if q.notify = true then
      [(.rumbleCut, q.pattern, c.code * 4096 + (if b then 1 else 0) * 1024 + q.source.code * 256)] else [] := by
  unfold Request.cutPost
  rw [put_of_fits _ 12 3 (by cases c <;> decide), put_of_fits _ 8 2 (by cases q.source <;> decide)]
  cases b <;> simp [Field.mark]

/-- A request that the Drive takes while none plays starts (R90). -/
theorem submit_free (r : Rumble) (q : Request) (c : Nat) (h : r.enabled = true) (h2 : r.playable q.pattern = true)
    (h3 : r.playing = none) :
    r.submit q c = ({ r with nextArrival := r.nextArrival + 1 }.start q c, [], .started) := by
  unfold Rumble.submit; rw [if_neg (by simp [h]), if_neg (by simp [h2])]; split
  · rfl
  · simp_all

/-- A request that the Drive takes while another plays (R90, R91). -/
theorem submit_taken (r : Rumble) (q : Request) (c : Nat) (p : Playing) (h : r.enabled = true)
    (h2 : r.playable q.pattern = true) (h3 : r.playing = some p) :
    let counted := { r with nextArrival := r.nextArrival + 1 }
    r.submit q c =
      if p.request.priority < q.priority then (counted.start q c, p.request.cutPost .preempt false, .started)
      else if r.queue.length < queuePlaces then ({ counted with queue := joinQueue q r.queue }, [], .queued)
      else if lowestPriority r.queue < q.priority then
        match displacedOf r.queue with
        | some d => ({ counted with queue := joinQueue q (r.queue.erase d) }, d.cutPost .displaced true, .queued)
        | none => (r, [], .refused .queueFull)
      else (r, [], .refused .queueFull) := by
  intro counted
  unfold Rumble.submit; rw [if_neg (by simp [h]), if_neg (by simp [h2])]; split
  · simp_all
  · rename_i p' hp; rw [h3] at hp; cases hp; rfl

end Sys2Proof.Machine
end

