-- ==== Sys2Proof/Laws/SaveSettle.lean ====
section
/-! SUPPORT. What settling leaves of the sequencer's steps: an end that was due is done, so a step whose last access is in
progress was not (log 9, log 10). -/

namespace Sys2Proof.Machine

/-! ## What is due in the Save Controller, and a step's last access (log 9, log 10) -/

/-- A property of the controller that its due ends keep, whatever the port, is kept by `settle`. -/
theorem settle_save {P : Save → Prop} (port : ∀ x p, P x → P { x with port := p })
    (ends : ∀ u : Ef24, P u.save → P u.leaveDraining.save ∧ P u.leaveScanning.save ∧ P u.finishIntent.save ∧
      P u.finishSwitching.save ∧ P u.finishClosing.save ∧ P u.finishSeed.save ∧ P u.finishFormat.save ∧
      P u.finishVerify.save ∧ P u.finishRecovery.save) {u : Ef24} (hu : P u.save) : P u.settle.save := by
  have concl : ∀ v : Ef24, P v.save → P v.conclude.save := fun v h => by rw [conclude_save]; exact port _ _ h
  have ev : ∀ (v : Ef24) (due : Bool) (f : Ef24 → Ef24), P (f v).save → P v.save → P (v.event due f).save := by
    intro v due f hf hv
    unfold Ef24.event
    split
    · exact concl _ hf
    · exact hv
  have onv : ∀ (v : Ef24) (f : Nat → Voice → Voice × List SoundEffect) (i : Nat), P v.save → P (v.onVoice f i).save := by
    intro v f i h
    unfold Ef24.onVoice
    rw [withSound_eq]; exact h
  have motor : ∀ v : Ef24, P v.save → P v.motorEnds.save := fun v h => ev _ _ _ (ev _ _ _ (ev _ _ _ h h) (ev _ _ _ h h))
    (ev _ _ _ (ev _ _ _ h h) (ev _ _ _ h h))
  have steps : ∀ v : Ef24, P v.save → P v.stepEnd.save := fun v h => ev _ _ _ h h
  have pattern : ∀ v : Ef24, P v.save → P v.patternFinished.save := fun v h => ev _ _ _ (by rw [withRumble_eq]; exact h) h
  have voice : ∀ (v : Ef24) i, P v.save → P (v.settleVoice i).save := by
    intro v i h
    have h1 := ev v (v.sound.voice i).primeDue (fun v => v.onVoice Voice.primeLimit i) (onv _ _ _ h) h
    have h2 := ev _ ((v.primeLimit i).sound.voice i).loopDue
      (fun v => v.onVoice (fun _ x => (x.loopReturn, [])) i) (onv _ _ _ h1) h1
    have h3 := ev _ (((v.primeLimit i).loopReturn i).sound.voice i).endDue
      (fun v => v.onVoice Voice.naturalEnd i) (onv _ _ _ h2) h2
    exact ev _ _ (fun v => v.onVoice Voice.rampEnd i) (onv _ _ _ h3) h3
  have voices : ∀ (l : List Nat) (v : Ef24), P v.save → P (l.foldl Ef24.settleVoice v).save := by
    intro l
    induction l with
    | nil => intro v h; exact h
    | cons i l ih => intro v h; exact ih _ (voice v i h)
  have save : ∀ v : Ef24, P v.save → P v.settleSave.save := by
    intro v h
    unfold Ef24.settleSave
    have h1 : P v.drainingDone.save := ev v v.save.drainingDue Ef24.leaveDraining (ends v h).1 h
    generalize v.drainingDone = v at h1
    have h2 : P v.scanDone.save := ev v v.scanDue Ef24.leaveScanning (ends v h1).2.1 h1
    generalize v.scanDone = v at h2
    have h3 : P v.intentDone.save := ev v v.save.intentDue Ef24.finishIntent (ends v h2).2.2.1 h2
    generalize v.intentDone = v at h3
    have h4 : P v.switchingDone.save := ev v v.save.switchingDue Ef24.finishSwitching (ends v h3).2.2.2.1 h3
    generalize v.switchingDone = v at h4
    have h5 : P v.closingDone.save := ev v v.save.closingDue Ef24.finishClosing (ends v h4).2.2.2.2.1 h4
    generalize v.closingDone = v at h5
    have h6 : P v.seedDone.save := ev v v.save.seedDue Ef24.finishSeed (ends v h5).2.2.2.2.2.1 h5
    generalize v.seedDone = v at h6
    have h7 : P v.formatDone.save := ev v v.save.formatDue Ef24.finishFormat (ends v h6).2.2.2.2.2.2.1 h6
    generalize v.formatDone = v at h7
    have h8 : P v.verifyDone.save := ev v v.save.verifyDue Ef24.finishVerify (ends v h7).2.2.2.2.2.2.2.1 h7
    generalize v.verifyDone = v at h8
    exact ev v v.save.recoveryDue Ef24.finishRecovery (ends v h8).2.2.2.2.2.2.2.2 h8
  have blocks : P u.settleBlocks.save := save _ (voices _ _ (pattern _ (steps _ (motor _ hu))))
  unfold Ef24.settle
  refine concl _ ?_
  generalize u.settleBlocks = v at blocks
  have asleep : P v.asleepReached.save := ev v v.sleepDue Ef24.fallAsleep blocks blocks
  unfold Ef24.sourceCheck
  split
  · exact asleep
  · exact asleep

/-- A step's end by its row while the step's last access is in progress: the access, then the end (log 10). -/
theorem endStep_last {s : State} {due : Ef24 → Bool} (finish : Ef24 → Ef24) (hd : due s.toEf24 = false)
    (hp : s.settled.save.port = some .sequencer) (hl : due s.settled.sequencerAccess = true) :
    s.becoming (s.toEf24.endStep due finish) = s.answering (finish s.settled.sequencerAccess) := by
  unfold State.settled at hp hl ⊢
  unfold Ef24.endStep
  generalize s.toEf24.settle = v at hp hl
  rw [if_neg (by simp [hd]), if_pos (by rw [hp, hl]; rfl)]
  rfl

/-- An access of the sequencer is in progress only where it has one to make (R110). -/
theorem conclude_wants {v : Ef24} (hp : v.conclude.save.port = some .sequencer) :
    v.conclude.save.wants = true ∧ v.coreRunning = true := by
  have e : v.conclude.save.wants = v.save.wants := by rw [conclude_save]; rfl
  rw [e]
  have h : v.claimStands .sequencer = true := by
    rw [conclude_port] at hp
    have win : v.winningClaim = some .sequencer → v.claimStands .sequencer = true := fun h => List.find?_some h
    cases hq : v.save.port with
    | none => rw [hq] at hp; exact win hp
    | some c =>
      rw [hq] at hp
      dsimp only at hp
      split at hp
      · rename_i hc; cases hp; exact hc
      · exact win hp
  simp only [Ef24.claimStands, Bool.and_eq_true] at h
  exact ⟨h.2, h.1.2⟩

/-- While the access of the sequencer is in progress, the sequencer has one to make (R110). -/
theorem settled_wants {s : State} (hp : s.settled.save.port = some .sequencer) : s.settled.save.wants = true := by
  unfold State.settled Ef24.settle at hp ⊢
  exact (conclude_wants hp).1

/-! ## Which ends may be due where the settled chip stands in a step -/

/-- What settling can do to the sequencer: each end that is due leads to its next step. -/
theorem settle_sequencer {P : Sequencer → Prop} (idle : P .idle)
    (formatting : ∀ sizes ws, P (.formatDraining sizes) → P (.formatting sizes ws))
    (copying : ∀ k, P (.seedDraining k) → P (.copying k 0 none))
    (scanning : ∀ k l, P (.commitDraining k l) → P (.scanning k l 0 crcStart))
    (scanned : ∀ k l i c, P (.scanning k l i c) → P (.guarding k l c) ∧ ∀ r ws, P (.intent true k r ws))
    (guarded : ∀ k l c, P (.guarding k l c) → ∀ r ws, P (.intent true k r ws))
    (switching : ∀ commit k r ws ws', P (.intent commit k r ws) → P (.switching commit k r ws'))
    (closing : ∀ commit k r ws ws', P (.switching commit k r ws) → P (.closing commit k ws'))
    {u : Ef24} (hu : P u.save.sequencer) : P u.settle.save.sequencer := by
  refine settle_save (P := fun x => P x.sequencer) (fun _ _ h => h) (fun v hv => ?_) hu
  unfold Ef24.leaveDraining Ef24.leaveScanning Ef24.finishIntent Ef24.finishSwitching Ef24.finishClosing
    Ef24.finishSeed Ef24.finishFormat Ef24.finishVerify Ef24.finishRecovery Ef24.guard Ef24.beginIntent
  cases hq : v.save.sequencer with
  | idle => rw [hq] at hv; simp [hq, hv, Ef24.onSave]
  | formatDraining sizes =>
    rw [hq] at hv; simp [hq, hv, Ef24.onSave, Ef24.sequence, idle, formatting sizes _ hv]
  | formatting sizes ws => rw [hq] at hv; simp [hq, hv, Ef24.onSave, idle]
  | seedDraining k => rw [hq] at hv; simp [hq, hv, Ef24.onSave, Ef24.sequence, idle, copying k hv]
  | copying k i w => rw [hq] at hv; simp [hq, hv, Ef24.onSave, Ef24.sequence, idle]
  | commitDraining k l => rw [hq] at hv; simp [hq, hv, Ef24.onSave, Ef24.sequence, idle, scanning k l hv]
  | scanning k l i c =>
    rw [hq] at hv; simp only [hq]; split <;> simp [hv, Ef24.onSave, Ef24.sequence, idle, scanned k l i c hv]
  | guarding k l c =>
    rw [hq] at hv; simp only [hq]; split <;> simp [hv, Ef24.onSave, Ef24.sequence, idle, guarded k l c hv]
  | intent commit k r ws =>
    rw [hq] at hv; simp [hq, hv, Ef24.onSave, Ef24.sequence, idle, switching commit k r ws _ hv]
  | switching commit k r ws =>
    rw [hq] at hv; simp [hq, hv, Ef24.onSave, Ef24.sequence, idle, closing commit k r ws _ hv]
  | closing commit k ws =>
    rw [hq] at hv; simp only [hq]; split <;> simp [hq, hv, Ef24.onSave, Ef24.sequence, Ef24.setBad, idle]
  | verifying k i c =>
    rw [hq] at hv; simp only [hq]; split <;> simp [hv, Ef24.onSave, Ef24.sequence, Ef24.setBad, idle]
  | recovering stage => rw [hq] at hv; simp [hq, hv, Ef24.onSave, idle]

/-- The steps after the last word of SCANNING. -/
def Sequencer.pastScan : Sequencer → Bool
  | .scanning _ l i _ => decide (l / 2 ≤ i)
  | .guarding _ _ _ => true
  | .intent _ _ _ _ => true
  | .switching _ _ _ _ => true
  | .closing _ _ _ => true
  | .idle => true
  | _ => false

/-- A step in SCANNING with a word to read was not due to leave it. -/
theorem scan_not_due {s : State} {k length index : Nat} {crc : Word}
    (hq : s.settled.save.sequencer = .scanning k length index crc) (hi : index < length / 2) : s.scanDue = false := by
  by_contra h
  have := settle_sequencer (P := fun q => q.pastScan = true) (u := s.toEf24) ?_ ?_ ?_ ?_ ?_ ?_ ?_ ?_ ?_
  · unfold State.settled at hq
    rw [hq] at this
    simp [Sequencer.pastScan] at this
    omega
  all_goals try simp [Sequencer.pastScan]
  unfold Ef24.scanDue at h
  split at h <;> simp_all

/-- The steps after the last write of INTENT. -/
def Sequencer.pastIntent : Sequencer → Bool
  | .intent _ _ _ ws => ws.isEmpty
  | .switching _ _ _ _ => true
  | .closing _ _ _ => true
  | .idle => true
  | _ => false

/-- A step in INTENT with a word to write was not due to leave it. -/
theorem intent_not_due {s : State} {commit : Bool} {k : Nat} {r : SlotRecord} {w : Nat × Word} {ws : List (Nat × Word)}
    (hq : s.settled.save.sequencer = .intent commit k r (w :: ws)) : s.save.intentDue = false := by
  by_contra h
  have := settle_sequencer (P := fun q => q.pastIntent = true) (u := s.toEf24) ?_ ?_ ?_ ?_ ?_ ?_ ?_ ?_ ?_
  · unfold State.settled at hq
    rw [hq] at this
    simp [Sequencer.pastIntent] at this
  all_goals try simp [Sequencer.pastIntent]
  unfold Save.intentDue at h
  split at h <;> simp_all

/-- The steps after the last write of SWITCHING. -/
def Sequencer.pastSwitching : Sequencer → Bool
  | .switching _ _ _ ws => ws.isEmpty
  | .closing _ _ _ => true
  | .idle => true
  | _ => false

/-- A step in SWITCHING with a word to write was not due to leave it. -/
theorem switching_not_due {s : State} {commit : Bool} {k : Nat} {r : SlotRecord} {w : Nat × Word}
    {ws : List (Nat × Word)} (hq : s.settled.save.sequencer = .switching commit k r (w :: ws)) :
    s.save.switchingDue = false := by
  by_contra h
  have := settle_sequencer (P := fun q => q.pastSwitching = true) (u := s.toEf24) ?_ ?_ ?_ ?_ ?_ ?_ ?_ ?_ ?_
  · unfold State.settled at hq
    rw [hq] at this
    simp [Sequencer.pastSwitching] at this
  all_goals try simp [Sequencer.pastSwitching]
  unfold Save.switchingDue at h
  split at h <;> simp_all

/-- The steps after the last write of CLOSING. -/
def Sequencer.pastClosing : Sequencer → Bool
  | .closing _ _ ws => ws.isEmpty
  | .idle => true
  | _ => false

/-- A step in CLOSING with a word to write was not due to leave it. -/
theorem closing_not_due {s : State} {commit : Bool} {k : Nat} {w : Nat × Word} {ws : List (Nat × Word)}
    (hq : s.settled.save.sequencer = .closing commit k (w :: ws)) : s.save.closingDue = false := by
  by_contra h
  have := settle_sequencer (P := fun q => q.pastClosing = true) (u := s.toEf24) ?_ ?_ ?_ ?_ ?_ ?_ ?_ ?_ ?_
  · unfold State.settled at hq
    rw [hq] at this
    simp [Sequencer.pastClosing] at this
  all_goals try simp [Sequencer.pastClosing]
  unfold Save.closingDue at h
  split at h <;> simp_all

/-- The steps after the last write of a format. -/
def Sequencer.pastFormat : Sequencer → Bool
  | .formatting _ ws => ws.isEmpty
  | .idle => true
  | _ => false

/-- A format with a word to write was not due to end. -/
theorem format_not_due {s : State} {sizes : List Nat} {w : Nat × Word} {ws : List (Nat × Word)}
    (hq : s.settled.save.sequencer = .formatting sizes (w :: ws)) : s.save.formatDue = false := by
  by_contra h
  have := settle_sequencer (P := fun q => q.pastFormat = true) (u := s.toEf24) ?_ ?_ ?_ ?_ ?_ ?_ ?_ ?_ ?_
  · unfold State.settled at hq
    rw [hq] at this
    simp [Sequencer.pastFormat] at this
  all_goals try simp [Sequencer.pastFormat]
  unfold Save.formatDue at h
  split at h <;> simp_all

/-- Recovery with an access to make was not due to end. -/
theorem recovery_not_due {s : State} {stage : RecoveryStage} (hq : s.settled.save.sequencer = .recovering stage)
    (hs : stage ≠ .finished) : s.save.recoveryDue = false := by
  by_contra h
  have := settle_sequencer (P := fun q => q = .recovering .finished ∨ q = .idle) (u := s.toEf24) (by simp) (by simp)
    (by simp) (by simp) (by simp) (by simp) (by simp) (by simp) (by
      unfold Save.recoveryDue at h; simp_all)
  unfold State.settled at hq
  rw [hq] at this
  simp [hs] at this

/-- A seed with a word to copy was not due to end. -/
theorem seed_not_due {s : State} {k index : Nat} {held : Option Word}
    (hq : s.settled.save.sequencer = .copying k index held) (hi : index < s.settled.save.slotWords k) :
    s.save.seedDue = false := by
  by_contra h
  have := settle_save (P := fun x => x.sequencer = .idle ∨
    ∃ k i w, x.sequencer = .copying k i w ∧ x.slotWords k ≤ i) (fun _ _ h => h) (fun v hv => ?_) (u := s.toEf24) (by
      unfold Save.seedDue at h; split at h <;> simp_all)
  · unfold State.settled at hq hi
    rw [hq] at this
    rcases this with h | ⟨_, _, _, h, hle⟩
    · cases h
    · cases h; omega
  · unfold Ef24.leaveDraining Ef24.leaveScanning Ef24.finishIntent Ef24.finishSwitching Ef24.finishClosing
      Ef24.finishSeed Ef24.finishFormat Ef24.finishVerify Ef24.finishRecovery
    rcases hv with hv | ⟨k, i, w, hv, hle⟩
    · simp [hv, Ef24.onSave]
    · simp [hv, hle, Ef24.onSave, Ef24.sequence]

/-- A verify with a word to read was not due to end. -/
theorem verify_not_due {s : State} {k index : Nat} {crc : Word}
    (hq : s.settled.save.sequencer = .verifying k index crc)
    (hi : index < (s.settled.save.slot k).record.dataLength.toNat / 2) : s.save.verifyDue = false := by
  by_contra h
  have := settle_save (P := fun x => x.sequencer = .idle ∨
    ∃ k i c, x.sequencer = .verifying k i c ∧ (x.slot k).record.dataWords ≤ i) (fun _ _ h => h) (fun v hv => ?_)
    (u := s.toEf24) (by unfold Save.verifyDue at h; split at h <;> simp_all)
  · unfold State.settled at hq hi
    rw [hq] at this
    rcases this with h | ⟨_, _, _, h, hle⟩
    · cases h
    · cases h; unfold SlotRecord.dataWords at hle; omega
  · unfold Ef24.leaveDraining Ef24.leaveScanning Ef24.finishIntent Ef24.finishSwitching Ef24.finishClosing
      Ef24.finishSeed Ef24.finishFormat Ef24.finishVerify Ef24.finishRecovery
    rcases hv with hv | ⟨k, i, w, hv, hle⟩
    · simp [hv, Ef24.onSave]
    · simp only [hv]
      refine ⟨?_, ?_, ?_, ?_, ?_, ?_, ?_, ?_, ?_⟩ <;> try split
      all_goals simp [hle, Ef24.onSave, Ef24.sequence, Ef24.setBad]

end Sys2Proof.Machine
end

