-- ==== Sys2Proof/Laws/SaveSpecs.lean ====
section
/-! SUPPORT. What the Save Controller's shared operations give: which steps a write meets, the words of a record, a volume
that is valid, recovery's accesses, the next slot verified. -/

namespace Sys2Proof.Machine

/-- The flags of a word that an operation covers (R131). -/
theorem covers_iff (op : FlagOp) (i : Nat) :
    op.covers i = true ↔ op.first ≤ 16 * op.nextWord + i ∧ 16 * op.nextWord + i < op.first + op.count := by
  simp [FlagOp.covers]

/-- The steps in which a write is dropped (R112). -/
theorem dropsWrites_iff (q : Sequencer) (k : Nat) : q.dropsWrites k = true ↔
    (∃ commit r ws, q = .intent commit k r ws) ∨ (∃ commit r ws, q = .switching commit k r ws) ∨
      ∃ commit ws, q = .closing commit k ws := by
  cases q <;> simp [Sequencer.dropsWrites]

/-- The steps of a commit that a write ends (R119). -/
theorem commitDisturbed_iff (q : Sequencer) (k : Nat) : q.commitDisturbed k = true ↔
    (∃ length, q = .commitDraining k length) ∨ (∃ length index crc, q = .scanning k length index crc) ∨
      ∃ length crc, q = .guarding k length crc := by
  cases q <;> simp [Sequencer.commitDisturbed]

/-- The steps of a seed that a write ends (R115). -/
theorem seedDisturbed_iff (q : Sequencer) (k : Nat) : q.seedDisturbed k = true ↔
    q = .seedDraining k ∨ ∃ index held, q = .copying k index held := by
  cases q <;> simp [Sequencer.seedDisturbed]

/-- The state word of a slot record (section 13.6). -/
theorem stateBits_word (r : SlotRecord) :
    word r.stateBits = BitVec.ofNat 16 ((if r.valid then 1 else 0) + (if r.live = .b then 2 else 0)) := by
  unfold SlotRecord.stateBits Field.mark word
  cases r.valid <;> cases r.live <;> rfl

/-- The ten words of a slot record (section 13.6). -/
theorem slotRecord_words (r : SlotRecord) :
    r.words =
      [ BitVec.ofNat 16 ((if r.valid then 1 else 0) + (if r.live = .b then 2 else 0)),
        r.generation, r.dataLength, r.crc,
        BitVec.ofNat 16 (r.gameDay.toNat / 65536), BitVec.ofNat 16 r.gameDay.toNat,
        BitVec.ofNat 16 (r.playSeconds.toNat / 65536), BitVec.ofNat 16 r.playSeconds.toNat,
        (match r.instant with | some t => BitVec.ofNat 16 (t.toNat / 65536) | none => 0xFFFF),
        (match r.instant with | some t => BitVec.ofNat 16 t.toNat | none => 0xFFFF) ] := by
  unfold SlotRecord.words
  rw [stateBits_word]
  cases r.instant <;> rfl

/-- A volume record that is valid (R105, R126). -/
theorem volumeValid_iff (ws : List Word) (code : BitVec 2) :
    let count := (ws.getD 1 0).toNat
    let sizes := (List.range count).map (fun k => (ws.getD (3 + k) 0).toNat)
    (volumeValid ws code = true ↔
      ws.getD 0 0 = 0x5EF2 ∧ crcOf (ws.take 11) = ws.getD 11 0 ∧ 1 ≤ count ∧ count ≤ 8 ∧
        (∀ z ∈ sizes, 1 ≤ z ∧ z ≤ 63) ∧ 1 + 2 * sizes.sum ≤ Config.sramKiB code ∧
        ws.getD 2 0 = (if code = 3 then 0 else code.zeroExtend 16)) := by
  intro count sizes
  have hcode : word (Config.sramCodeTaken code) = (if code = 3 then 0 else code.zeroExtend 16) := by
    revert code; decide
  have hlen : (volumeSizes ws).length = count := by
    unfold volumeSizes upTo
    simp only [List.length_map, List.length_range]
    rfl
  have hsz : volumeSizes ws = sizes := rfl
  unfold volumeValid volumeFits checkPasses
  rw [hcode]
  simp only [Bool.and_eq_true, beq_iff_eq, decide_eq_true_eq, List.all_eq_true, hlen]
  rw [hsz]
  constructor
  · rintro ⟨⟨⟨⟨a, b⟩, c⟩, ⟨⟨d, e⟩, f⟩, g⟩, h⟩
    exact ⟨a, b, d, e, f, g, h⟩
  · rintro ⟨a, b, d, e, f, g, h⟩
    exact ⟨⟨⟨⟨a, b⟩, e⟩, ⟨⟨d, e⟩, f⟩, g⟩, h⟩

set_option maxRecDepth 8000 in
/-- An access of recovery that completes (R126). -/
theorem recoveryAccess_exec (s : State) (stage : RecoveryStage) (h : s.settled.save.port = some .sequencer)
    (hq : s.settled.save.sequencer = .recovering stage) (hw : stage.wants = true) :
    exec .sequencerAccess s = s.answering ((s.settled.recoveryAccess stage).takeSramPort) := by
  rw [exec_sequencerAccess]
  have e1 : s.settled.access .sequencer Ef24.sequencerAccess = s.settled.sequencerAccess := by
    unfold Ef24.access; rw [h]; rfl
  rw [e1]
  unfold Ef24.sequencerAccess Save.wants
  rw [hq]
  simp only [hw, if_true]
  unfold Ef24.sequencerStep
  rw [hq]

/-- A record with a mark whose writing is cut off (R106, R123; log 46): before the mark is written the mark's word is as it was,
and with only the check word left the record holds its new mark and fields and the check word that was there. -/
theorem markedRecordWrites_cut {a b : Nat} {fs : List Nat} {mark : Word} {fields : List Word} {m : Memory} {n : Nat}
    (hm : m.wf) (hd : (a :: fs ++ [b]).Nodup) (hl : fs.length = fields.length) :
    let cut := m.writeAll ((markedRecordWrites (a :: fs ++ [b]) mark fields).take n)
    (n ≤ fields.length → cut.read a = m.read a) ∧
    (n = fields.length + 1 → (a :: fs ++ [b]).map cut.read = mark :: fields ++ [m.read b]) := by
  have hzip : (fs ++ [b]).zip fields = fs.zip fields := by
    conv_lhs => rw [← List.append_nil fields]
    rw [List.zip_append hl]; simp
  have hwrites : markedRecordWrites (a :: fs ++ [b]) mark fields =
      fs.zip fields ++ [(a, mark), (b, crcOf (mark :: fields))] := by
    unfold markedRecordWrites
    rw [List.cons_append, List.tail_cons, hzip, List.headD_cons, ← List.cons_append, List.getLastD_eq_getLast?,
      List.getLast?_append]
    rfl
  have hlen : (fs.zip fields).length = fields.length := by simp [hl]
  rw [List.cons_append, List.nodup_cons, List.nodup_append] at hd
  obtain ⟨ha, hfs, -, hb⟩ := hd
  have hab : a ≠ b := fun h => ha (by simp [h])
  have hnot : ∀ x ∈ fs.zip fields, x.1 ≠ a := fun x hx h => ha (by
    simp only [List.mem_append]; exact Or.inl (h ▸ (List.of_mem_zip hx).1))
  have hnotb : ∀ x ∈ fs.zip fields, x.1 ≠ b := fun x hx => hb _ (List.of_mem_zip hx).1 _ (by simp)
  intro cut
  constructor
  · intro hn
    have : cut = m.writeAll ((fs.zip fields).take n) := by
      show m.writeAll _ = _
      rw [hwrites, List.take_append_of_le_length (by omega)]
    rw [this]
    exact Memory.read_writeAll_other _ _ (fun x hx => hnot x (List.mem_of_mem_take hx))
  · intro hn
    have : cut = (m.writeAll (fs.zip fields)).write a mark := by
      show m.writeAll _ = _
      rw [hwrites, hn, ← hlen, List.take_length_add_append, Memory.writeAll_append]
      rfl
    rw [this]
    have hwf := Memory.writeAll_wf hm (fs.zip fields)
    rw [List.cons_append, List.map_cons, Memory.read_write_same hwf, List.map_append, List.map_singleton,
      Memory.read_write_other _ hab, Memory.read_writeAll_other _ _ hnotb]
    have : fs.map ((m.writeAll (fs.zip fields)).write a mark).read = fields := by
      rw [← Memory.map_read_writeAll_zip fs fields m hm hfs hl]
      refine List.map_congr_left (fun x hx => ?_)
      rw [Memory.map_read_writeAll_zip fs fields m hm hfs hl]
      exact Memory.read_write_other _ (fun h => ha (by simp [h, hx])) _
    rw [this]
    rfl

/-- An intent record whose writing is cut off is not valid, unless the check word that was there is the new record's (R106, R118,
R123; log 46). -/
theorem intentRecordWrites_cut {k n : Nat} {new prior : SlotRecord} {m : Memory} (hm : m.wf)
    (hmark : m.read intentBase ≠ recordMark) (hn : n < 23)
    (hcut : n < 22 ∨ m.read 175 ≠ crcOf (recordMark :: intentFields k new prior)) :
    intentValid (intentRecordWords.map (m.writeAll ((intentRecordWrites k new prior).take n)).read) = false := by
  have hl : (intentFields k new prior).length = 21 := by
    simp [intentFields, slotRecord_words]
  have hfacts := markedRecordWrites_cut (a := intentBase) (b := 175) (fs := (upTo 21).map (145 + ·)) (mark := recordMark)
    (fields := intentFields k new prior) (n := n) hm (by decide) (by rw [hl]; rfl)
  have hwords : intentBase :: (upTo 21).map (145 + ·) ++ [175] = intentRecordWords := by decide
  rw [hwords, hl] at hfacts
  by_cases h : n ≤ 21
  · have hhead : imageWord (intentRecordWords.map
        (m.writeAll ((intentRecordWrites k new prior).take n)).read) 0 = m.read intentBase := hfacts.1 h
    unfold intentValid
    rw [hhead, beq_eq_false_iff_ne.mpr hmark, Bool.false_and]
  · have hn : n = 22 := by omega
    have hread := hfacts.2 hn
    unfold intentRecordWrites
    rw [hread]
    have hc : m.read 175 ≠ crcOf (recordMark :: intentFields k new prior) := hcut.resolve_left (by omega)
    have htake : (recordMark :: intentFields k new prior ++ [m.read 175]).take 22 = recordMark :: intentFields k new prior := by
      rw [List.take_append_of_le_length (by simp [hl]), List.take_of_length_le (by simp [hl])]
    have hget : imageWord (recordMark :: intentFields k new prior ++ [m.read 175]) 22 = m.read 175 := by
      simp [imageWord, hl]
    unfold intentValid checkPasses
    rw [htake, hget, beq_eq_false_iff_ne.mpr hc.symm, Bool.and_false]

/-- A new volume record whose writing is cut off is not valid, unless the check word that was there is the new record's (R105,
R106, R123; log 46). -/
theorem volumeRecordWrites_cut {sizes : List Nat} {capacity n : Nat} {m : Memory} (code : BitVec 2) (hm : m.wf)
    (hmark : m.read 0 ≠ recordMark) (hn : n < 12)
    (hcut : n < 11 ∨ m.read 15 ≠ crcOf (recordMark :: volumeFields sizes capacity)) :
    volumeValid (volumeRecordWords.map (m.writeAll ((volumeRecordWrites sizes capacity).take n)).read) code = false := by
  have hl : (volumeFields sizes capacity).length = 10 := rfl
  have hfacts := markedRecordWrites_cut (a := 0) (b := 15) (fs := (upTo 10).map (1 + ·)) (mark := recordMark)
    (fields := volumeFields sizes capacity) (n := n) hm (by decide) rfl
  have hwords : 0 :: (upTo 10).map (1 + ·) ++ [15] = volumeRecordWords := by decide
  rw [hwords, hl] at hfacts
  by_cases h : n ≤ 10
  · have hhead : imageWord (volumeRecordWords.map
        (m.writeAll ((volumeRecordWrites sizes capacity).take n)).read) 0 = m.read 0 := hfacts.1 h
    simp only [volumeValid, hhead, beq_eq_false_iff_ne.mpr hmark, Bool.false_and]
  · have hread := hfacts.2 (by omega)
    have hc : m.read 15 ≠ crcOf (recordMark :: volumeFields sizes capacity) := hcut.resolve_left (by omega)
    have hcheck : checkPasses (recordMark :: volumeFields sizes capacity ++ [m.read 15]) 11 = false :=
      beq_eq_false_iff_ne.mpr hc.symm
    unfold volumeRecordWrites
    rw [hread]
    simp only [volumeValid, hcheck, Bool.and_false, Bool.false_and]

/-- A format that is cut off after its first word leaves no valid volume record, unless the check word that was there is the new
record's (R106, R114, R123; log 46). -/
theorem formatWrites_cut {sizes : List Nat} {capacity n : Nat} {m : Memory} (code : BitVec 2) (hm : m.wf) (h1 : 1 ≤ n)
    (hn : n < (formatWrites sizes capacity).length)
    (hcut : n + 1 < (formatWrites sizes capacity).length ∨
      m.read 15 ≠ crcOf (recordMark :: volumeFields sizes capacity)) :
    volumeValid (volumeRecordWords.map (m.writeAll ((formatWrites sizes capacity).take n)).read) code = false := by
  obtain ⟨n, rfl⟩ : ∃ j, n = j + 1 := ⟨n - 1, by omega⟩
  obtain ⟨body, hsplit, hlen, hlow⟩ : ∃ body,
      formatWrites sizes capacity = (0, 0) :: (body ++ volumeRecordWrites sizes capacity) ∧
      body.length = 345 ∧ ∀ x ∈ body, 15 < x.1 :=
    ⟨intentClear ++ (upTo 8).flatMap (fun k => slotRecordWrites k (SlotRecord.empty 0)) ++
      (upTo 256).map (fun w => (flagPageBase + w, 0)), by simp [formatWrites], by decide +kernel, by decide +kernel⟩
  have hvolume : (volumeRecordWrites sizes capacity).length = 12 := rfl
  rw [hsplit] at hn hcut ⊢
  rw [List.length_cons, List.length_append, hlen, hvolume] at hn hcut
  rw [List.take_succ_cons, Memory.writeAll]
  have hwf := Memory.write_wf hm 0 0
  have hzero := Memory.read_write_same hm 0 0
  by_cases hb : n ≤ body.length
  · rw [List.take_append_of_le_length hb]
    have hhead := Memory.read_writeAll_other (a := 0) (body.take n) (m.write 0 0)
      (fun x hx => by have := hlow x (List.mem_of_mem_take hx); omega)
    simp only [volumeValid, volumeRecordWords, List.map_cons, imageWord, List.getD_cons_zero, hhead, hzero]
    rfl
  · obtain ⟨j, rfl⟩ : ∃ j, n = body.length + j := ⟨n - body.length, by omega⟩
    rw [List.take_length_add_append, Memory.writeAll_append]
    refine volumeRecordWrites_cut code (Memory.writeAll_wf hwf body) ?_ (by omega) ?_
    · rw [Memory.read_writeAll_other _ _ (fun x hx => by have := hlow x hx; omega), hzero]
      decide
    · rw [Memory.read_writeAll_other _ _ (fun x hx => by have := hlow x hx; omega), Memory.read_write_other _ (by decide)]
      exact hcut.imp_left (by omega)

/-- A slot record passes its check when the check word is its CRC (R106). -/
theorem slotRecord_checks (got : List Word) (x : Word) (h : got.length = 10) :
    checkPasses (got ++ [x]) 10 = decide (crcOf got = x) := by
  unfold checkPasses imageWord
  have : (got ++ [x]).take 10 = got := by rw [← h]; simp
  rw [this]
  have : (got ++ [x]).getD 10 0 = x := by rw [← h]; simp
  rw [this]
  rfl

/-- Verification goes on at the lowest VALID slot left, or recovery is finished (R128). -/
theorem verifyFrom_spec (fuel : Nat) : ∀ (v : Ef24) (j : Nat), v.save.slotCount ≤ j + fuel →
    ((∀ m, ¬ (j ≤ m ∧ m < v.save.slotCount ∧ (v.save.slot m).record.valid = true)) →
      v.verifyFrom fuel j = v.recover .finished) ∧
    (∀ m, (j ≤ m ∧ m < v.save.slotCount ∧ (v.save.slot m).record.valid = true) →
      (∀ l, (j ≤ l ∧ l < v.save.slotCount ∧ (v.save.slot l).record.valid = true) → m ≤ l) →
      2 ≤ (v.save.slot m).record.dataLength.toNat →
      v.verifyFrom fuel j = v.recover (.verifying m 0 0xFFFF)) := by
  induction fuel with
  | zero =>
    intro v j h
    refine ⟨fun _ => rfl, ?_⟩
    intro m hm; omega
  | succ fuel ih =>
    intro v j h
    obtain ⟨h1, h2⟩ := ih v (j + 1) (by omega)
    by_cases hc : v.save.slotCount ≤ j
    · refine ⟨fun _ => ?_, ?_⟩
      · unfold Ef24.verifyFrom; rw [if_pos hc]
      · intro m hm; omega
    · cases hv : (v.save.slot j).record.valid with
      | false =>
        have e : v.verifyFrom (fuel+1) j = v.verifyFrom fuel (j+1) := by
          conv => lhs; unfold Ef24.verifyFrom
          rw [if_neg hc, if_pos (by simp [hv])]
        have hsh : ∀ m, (j ≤ m ∧ m < v.save.slotCount ∧ (v.save.slot m).record.valid = true) ↔
            (j + 1 ≤ m ∧ m < v.save.slotCount ∧ (v.save.slot m).record.valid = true) := by
          intro m
          constructor
          · rintro ⟨a, b, c⟩
            refine ⟨?_, b, c⟩
            by_contra hlt
            have : m = j := by omega
            subst this; simp_all
          · rintro ⟨a, b, c⟩; exact ⟨by omega, b, c⟩
        rw [e]
        refine ⟨fun hn => h1 (fun m hm => hn m ((hsh m).mpr hm)), fun m hm hl hd =>
          h2 m ((hsh m).mp hm) (fun l hl' => hl l ((hsh l).mpr hl')) hd⟩
      | true =>
        refine ⟨fun hn => absurd ⟨le_refl j, by omega, hv⟩ (hn j), ?_⟩
        intro m hm hl hd
        have : m = j := by have := hl j ⟨le_refl j, by omega, hv⟩; omega
        subst this
        unfold Ef24.verifyFrom
        rw [if_neg hc, if_neg (by simp [hv]), if_neg (by unfold SlotRecord.dataWords; omega)]
        rfl

/-- A verified slot keeps everything but its Bad mark. -/
theorem judgeLive_save (v : Ef24) (k : Nat) (crc : Word) :
    (v.judgeLive k crc).save.slotCount = v.save.slotCount ∧
      ∀ m, ((v.judgeLive k crc).save.slot m).record = (v.save.slot m).record := by
  unfold Ef24.judgeLive
  split
  · exact ⟨rfl, fun _ => rfl⟩
  · refine ⟨rfl, fun m => ?_⟩
    show (Table.get (Table.put v.save.slots k { v.save.slot k with bad := true }) m Slot.reset).record = _
    by_cases hm : k = m
    · subst hm
      by_cases hk : k < 8
      · rw [table_get_put_same _ _ _ hk]
      · have : Table.put v.save.slots k { v.save.slot k with bad := true } = v.save.slots := by
          unfold Table.put
          exact Vector.setIfInBounds_eq_of_size_le (by omega)
        rw [this]; rfl
    · rw [table_get_put_other _ _ _ hm]; rfl

/-- Any fuel that reaches the last slot does. -/
theorem verifyFrom_fuel (fuel : Nat) : ∀ (other : Nat) (v : Ef24) (j : Nat), v.save.slotCount ≤ j + fuel →
    v.save.slotCount ≤ j + other → v.verifyFrom fuel j = v.verifyFrom other j := by
  have done : ∀ (n : Nat) (v : Ef24) (j : Nat), v.save.slotCount ≤ j → v.verifyFrom n j = v.recover .finished := by
    intro n v j h
    cases n with
    | zero => rfl
    | succ n => unfold Ef24.verifyFrom; rw [if_pos h]
  induction fuel with
  | zero => intro other v j h _; rw [done 0 v j h, done other v j h]
  | succ fuel ih =>
    intro other v j h ho
    cases other with
    | zero => rw [done _ v j ho, done 0 v j ho]
    | succ other =>
      unfold Ef24.verifyFrom
      rw [ih other v (j + 1) (by omega) (by omega),
        ih other (v.judgeLive j crcStart) (j + 1) (by rw [(judgeLive_save _ _ _).1]; omega)
          (by rw [(judgeLive_save _ _ _).1]; omega)]

/-- Verification judges the lowest VALID slot left at once if its data has no whole word, and goes on after it (R128; log 24). -/
theorem verifyFrom_short (fuel : Nat) : ∀ (v : Ef24) (j m : Nat), v.save.slotCount ≤ j + fuel →
    (j ≤ m ∧ m < v.save.slotCount ∧ (v.save.slot m).record.valid = true) →
    (∀ l, (j ≤ l ∧ l < v.save.slotCount ∧ (v.save.slot l).record.valid = true) → m ≤ l) →
    (v.save.slot m).record.dataLength.toNat < 2 →
    v.verifyFrom fuel j = (v.judgeLive m 0xFFFF).verifyFrom fuel (m + 1) := by
  induction fuel with
  | zero => intro v j m h hm; omega
  | succ fuel ih =>
    intro v j m h hm hl hd
    have hc : ¬ v.save.slotCount ≤ j := by omega
    cases hv : (v.save.slot j).record.valid with
    | false =>
      have hj : j ≠ m := by rintro rfl; simp_all
      have e : v.verifyFrom (fuel + 1) j = v.verifyFrom fuel (j + 1) := by
        conv => lhs; unfold Ef24.verifyFrom
        rw [if_neg hc, if_pos (by simp [hv])]
      rw [e, ih v (j + 1) m (by omega) ⟨by omega, hm.2⟩ (fun l x => hl l ⟨by omega, x.2⟩) hd]
      exact verifyFrom_fuel _ _ _ _ (by rw [(judgeLive_save _ _ _).1]; omega) (by rw [(judgeLive_save _ _ _).1]; omega)
    | true =>
      have : m = j := by have := hl j ⟨le_refl j, by omega, hv⟩; omega
      subst this
      conv => lhs; unfold Ef24.verifyFrom
      rw [if_neg hc, if_neg (by simp [hv]), if_pos (by unfold SlotRecord.dataWords; omega)]
      exact verifyFrom_fuel _ _ _ _ (by rw [(judgeLive_save _ _ _).1]; omega) (by rw [(judgeLive_save _ _ _).1]; omega)

/-- The newest entry of the buffer for an address, its data; none without such an entry (R113). -/
theorem newestPosted_spec (buffer : List Posted) (a : Nat) :
    ((∀ p ∈ buffer, p.address ≠ a) → newestPosted buffer a = none) ∧
    ∀ older p newer, buffer = older ++ p :: newer → p.address = a → (∀ q ∈ newer, q.address ≠ a) →
      newestPosted buffer a = some p.data := by
  constructor
  · intro h
    have e : buffer.filter (fun p => p.address = a) = [] := by
      rw [List.filter_eq_nil_iff]; intro p hp; simp [h p hp]
    simp [newestPosted, e]
  · rintro older p newer rfl hp hn
    have e : newer.filter (fun q => q.address = a) = [] := by
      rw [List.filter_eq_nil_iff]; intro q hq; simp [hn q hq]
    simp [newestPosted, List.filter_append, hp, e]

end Sys2Proof.Machine
end

