-- ==== Sys2Proof/Laws/SoundSpecs.lean ====
section
/-! SUPPORT. What the Sound Engine's shared operations give: one voice put, an operation on all voices, the choice of a
voice to steal, a sample taken. -/

namespace Sys2Proof.Machine

/-- The voice numbers are those below 6. -/
theorem mem_voiceNumbers {i : Nat} : i ∈ voiceNumbers ↔ i < 6 := by
  unfold voiceNumbers; simp; omega

/-- A voice with a cue in hand is PRIMING or PLAYING. -/
theorem live_iff (v : Voice) : v.live = true ↔ v.state = .priming ∨ v.state = .playing := by
  simp [Voice.live]

/-- The voice put is the voice read. -/
theorem withVoice_same (s : Sound) (i : Nat) (v : Voice) (h : i < 6) : (s.withVoice i v).voice i = v :=
  table_get_put_same _ _ _ h

/-- Every other voice is as before. -/
theorem withVoice_other (s : Sound) (i j : Nat) (v : Voice) (h : i ≠ j) : (s.withVoice i v).voice j = s.voice j :=
  table_get_put_other _ _ _ h

/-- An operation on some voices: what is asked, each voice, and nothing else (R77). -/
theorem onVoices_fold (f : Nat → Voice → Voice × List SoundEffect) (l : List Nat) (hl : l.Nodup) (h6 : ∀ i ∈ l, i < 6)
    (x : Sound) (fx : List SoundEffect) :
    (l.foldl (Sound.onVoice f) (x, fx)).2 = fx ++ l.flatMap (fun i => (f i (x.voice i)).2) ∧
    (∀ i, (l.foldl (Sound.onVoice f) (x, fx)).1.voice i = if i ∈ l then (f i (x.voice i)).1 else x.voice i) ∧
    ∃ vs, (l.foldl (Sound.onVoice f) (x, fx)).1 = { x with voices := vs } := by
  induction l generalizing x fx with
  | nil => exact ⟨by simp, by simp, x.voices, rfl⟩
  | cons a l ih =>
    rw [List.foldl_cons]
    rw [List.nodup_cons] at hl
    have hs : Sound.onVoice f (x, fx) a = (x.withVoice a (f a (x.voice a)).1, fx ++ (f a (x.voice a)).2) := rfl
    rw [hs]
    obtain ⟨h1, h2, vs, h3⟩ := ih hl.2 (fun i hi => h6 i (by simp [hi])) (x.withVoice a (f a (x.voice a)).1)
      (fx ++ (f a (x.voice a)).2)
    refine ⟨?_, ?_, vs, ?_⟩
    · rw [h1, List.flatMap_cons, List.append_assoc]
      congr 2
      apply List.flatMap_congr
      intro i hi
      rw [withVoice_other _ _ _ _ (by rintro rfl; exact hl.1 hi)]
    · intro i
      rw [h2]
      by_cases hia : i = a
      · subst hia
        rw [if_neg hl.1, if_pos (by simp), withVoice_same _ _ _ (h6 i (by simp))]
      · rw [withVoice_other _ _ _ _ (Ne.symm hia)]
        simp [hia]
    · rw [h3]; rfl

/-- The voice chosen to be stolen is the weakest, and of those the oldest (R68). -/
theorem betterSteal_fold (s : Sound) (l : List Nat) (b : Option Nat) (i : Nat) (h : l.foldl s.betterSteal b = some i) :
    (i ∈ l ∨ b = some i) ∧ ∀ j, (j ∈ l ∨ b = some j) →
      ((s.voice i).play.priority < (s.voice j).play.priority ∨
      ((s.voice i).play.priority = (s.voice j).play.priority ∧ (s.voice i).play.order ≤ (s.voice j).play.order)) := by
  induction l generalizing b with
  | nil => simp at h; subst h; simp
  | cons a l ih =>
    rw [List.foldl_cons] at h
    obtain ⟨h1, h2⟩ := ih _ h
    cases b with
    | none =>
      have e : s.betterSteal none a = some a := rfl
      rw [e] at h1 h2
      refine ⟨?_, ?_⟩
      · rcases h1 with h1 | h1 <;> simp_all
      · rintro j (hj | hj)
        · rcases List.mem_cons.mp hj with rfl | hj
          · exact h2 _ (Or.inr rfl)
          · exact h2 _ (Or.inl hj)
        · cases hj
    | some b =>
      have e : s.betterSteal (some b) a = if s.stealsBefore a b then some a else some b := rfl
      by_cases hs : s.stealsBefore a b = true
      · rw [e, if_pos hs] at h1 h2
        simp [Sound.stealsBefore] at hs
        have ha := h2 a (Or.inr rfl)
        refine ⟨?_, ?_⟩
        · rcases h1 with h1 | h1 <;> simp_all
        · rintro j (hj | hj)
          · rcases List.mem_cons.mp hj with rfl | hj
            · exact ha
            · exact h2 _ (Or.inl hj)
          · cases hj; omega
      · rw [e, if_neg hs] at h1 h2
        simp [Sound.stealsBefore] at hs
        have hb := h2 b (Or.inr rfl)
        refine ⟨?_, ?_⟩
        · rcases h1 with h1 | h1 <;> simp_all
        · rintro j (hj | hj)
          · rcases List.mem_cons.mp hj with rfl | hj
            · rcases hs with ⟨hs1, hs2⟩
              by_cases heq : (s.voice j).play.priority = (s.voice b).play.priority
              · have := hs2 heq; omega
              · omega
            · exact h2 _ (Or.inl hj)
          · cases hj; exact hb

/-- No voice is chosen from an empty list only. -/
theorem betterSteal_fold_none (s : Sound) (l : List Nat) (b : Option Nat) :
    l.foldl s.betterSteal b = none ↔ l = [] ∧ b = none := by
  induction l generalizing b with
  | nil => simp
  | cons a l ih =>
    rw [List.foldl_cons, ih]
    cases b with
    | none => simp [Sound.betterSteal]
    | some b => simp only [Sound.betterSteal]; split <;> simp

/-- A format that has a name is the format used (R65). -/
theorem formatOf_named (e : CueEntry) (f : CueFormat) (h : e.formatNamed = some f) : e.formatOf = f := by
  simp [CueEntry.formatOf, h]

/-- A sample falls due: from the word in hand, the buffer, or as an underrun (R72, R74). -/
theorem takeSample_spec (v : Voice) (i : Nat) :
    let e := v.play.entry
    let address := e.start.toNat + v.position / e.perWord
    let sample (w : Word) := decodeSample e w (v.position % e.perWord) v.predictor v.exponent
    let taken (w : Word) (buffer : List Word) : Voice :=
      { v with buffer := buffer, held := some (address, w), current := (sample w).1, predictor := (sample w).2.1,
               exponent := (sample w).2.2, position := v.position + 1 }
    let inHand := ∃ w, v.held = some (address, w)
    (∀ w, v.held = some (address, w) → v.takeSample i = (taken w v.buffer, [])) ∧
    (∀ w rest, ¬ inHand → v.buffer = w :: rest → v.takeSample i = (taken w rest, [])) ∧
    (¬ inHand → v.buffer = [] → v.takeSample i = v.underrun i) := by
  intro e address sample taken inHand
  have haddr : v.play.entry.wordAt v.position = address := rfl
  refine ⟨?_, ?_, ?_⟩
  · intro w h
    unfold Voice.takeSample
    rw [h]
    cases hb : v.buffer with
    | nil => simp only [haddr, if_true]; simp only [Voice.sampleFrom, taken, sample, ← hb]; rfl
    | cons x rest => simp only [haddr, if_true]; simp only [Voice.sampleFrom, taken, sample, ← hb]; rfl
  · intro w rest hn hb
    unfold Voice.takeSample
    rw [hb]
    cases hh : v.held with
    | none => rfl
    | some x =>
      obtain ⟨a, y⟩ := x
      have : ¬ a = address := by rintro rfl; exact hn ⟨y, hh⟩
      simp only [haddr, if_neg this]; rfl
  · intro hn hb
    unfold Voice.takeSample
    rw [hb]
    cases hh : v.held with
    | none => rfl
    | some x =>
      obtain ⟨a, y⟩ := x
      have : ¬ a = address := by rintro rfl; exact hn ⟨y, hh⟩
      simp only [haddr, if_neg this]

end Sys2Proof.Machine
end

