-- ==== Sys2Proof/Laws/Time.lean ====
section
/-! SUPPORT. The calendar's arithmetic: ranges, and what one second does to the instant (R138, R139). -/

namespace Sys2Proof.Machine

/-- A reading of the calendar, its conditions one by one. -/
theorem exists_iff (t : DateTime) :
    t.exists_ = true ↔ (2000 ≤ t.year ∧ t.year ≤ 2099) ∧ (1 ≤ t.month ∧ t.month ≤ 12) ∧
      (1 ≤ t.date ∧ t.date ≤ monthDays t.year t.month) ∧ t.hour ≤ 23 ∧ t.minute ≤ 59 ∧ t.second ≤ 59 := by
  simp [DateTime.exists_, and_assoc]

/-- February's length, the only one that depends on the year. -/
theorem february (year : Nat) : monthDays year 2 = if year % 4 = 0 then 29 else 28 := by
  unfold monthDays leapYear
  by_cases h : year % 4 = 0 <;> simp [h]

/-- The days before a month, for the twelve months. -/
theorem daysBeforeMonth_eq (year : Nat) :
    daysBeforeMonth year 1 = 0 ∧ daysBeforeMonth year 2 = 31 ∧
      (∀ f, monthDays year 2 = f →
        daysBeforeMonth year 3 = 31 + f ∧ daysBeforeMonth year 4 = 62 + f ∧ daysBeforeMonth year 5 = 92 + f ∧
        daysBeforeMonth year 6 = 123 + f ∧ daysBeforeMonth year 7 = 153 + f ∧ daysBeforeMonth year 8 = 184 + f ∧
        daysBeforeMonth year 9 = 215 + f ∧ daysBeforeMonth year 10 = 245 + f ∧ daysBeforeMonth year 11 = 276 + f ∧
        daysBeforeMonth year 12 = 306 + f) := by
  refine ⟨rfl, rfl, fun f hf => ?_⟩
  have h1 : monthDays year 1 = 31 := rfl
  have h3 : monthDays year 3 = 31 := rfl
  have h4 : monthDays year 4 = 30 := rfl
  have h5 : monthDays year 5 = 31 := rfl
  have h6 : monthDays year 6 = 30 := rfl
  have h7 : monthDays year 7 = 31 := rfl
  have h8 : monthDays year 8 = 31 := rfl
  have h9 : monthDays year 9 = 30 := rfl
  have h10 : monthDays year 10 = 31 := rfl
  have h11 : monthDays year 11 = 30 := rfl
  unfold daysBeforeMonth upTo
  simp only [Nat.add_one_sub_one, List.range_succ, List.range_zero, List.map_append, List.map_cons,
    List.map_nil, List.sum_append, List.sum_cons, List.sum_nil, List.nil_append, Nat.reduceAdd, Nat.zero_add, h1, hf, h3, h4,
    h5, h6, h7, h8, h9, h10, h11]
  omega

/-- A month's last day is followed by the next month's first. -/
theorem daysBeforeMonth_succ (year : Nat) {month : Nat} (h1 : 1 ≤ month) (h2 : month ≤ 11) :
    daysBeforeMonth year (month + 1) = daysBeforeMonth year month + monthDays year month := by
  obtain ⟨k, rfl⟩ : ∃ k, month = k + 1 := ⟨month - 1, by omega⟩
  unfold daysBeforeMonth upTo
  simp only [Nat.add_one_sub_one]
  rw [List.range_succ, List.map_append, List.sum_append]
  simp

/-- The days before a year, year by year. -/
theorem daysBeforeYear_sum (year : Nat) :
    ((List.range (year - 2000)).map (fun y => if y % 4 = 0 then 366 else 365)).sum = daysBeforeYear year := by
  unfold daysBeforeYear
  induction year - 2000 with
  | zero => rfl
  | succ n ih =>
    rw [List.range_succ, List.map_append, List.sum_append, ih]
    simp only [List.map_cons, List.map_nil, List.sum_cons, List.sum_nil]
    split <;> omega

/-- A year's last day is followed by the next year's first. -/
theorem daysBeforeYear_succ {year : Nat} (h : 2000 ≤ year) :
    daysBeforeYear (year + 1) = daysBeforeYear year + daysBeforeMonth year 12 + 31 := by
  have hd := ((daysBeforeMonth_eq year).2.2 _ (february year)).2.2.2.2.2.2.2.2.2
  rw [hd]
  unfold daysBeforeYear
  split <;> omega

/-- The next date counts one day more. -/
theorem nextDate_days {t : DateTime} (h : t.exists_ = true) : t.nextDate.days = t.days + 1 := by
  obtain ⟨⟨hy, _⟩, ⟨hm1, hm2⟩, ⟨hd1, hd2⟩, _⟩ := (exists_iff t).mp h
  unfold DateTime.nextDate
  split
  · unfold DateTime.days
    dsimp only
    omega
  · split
    · have := daysBeforeMonth_succ t.year hm1 (by omega)
      unfold DateTime.days
      dsimp only
      omega
    · have hm : t.month = 12 := by omega
      have := daysBeforeYear_succ hy
      have h1 := (daysBeforeMonth_eq (t.year + 1)).1
      have h31 : monthDays t.year t.month = 31 := by rw [hm]; rfl
      have hd : t.date = 31 := by omega
      unfold DateTime.days
      dsimp only
      rw [hm, hd, h1]
      omega

/-- The next second counts one second more (R139). -/
theorem next_instant {t : DateTime} (h : t.exists_ = true) : t.next.instant = t.instant + 1 := by
  obtain ⟨_, _, _, hh, hm, hs⟩ := (exists_iff t).mp h
  have hdays : ∀ s mi ho, ({ t with second := s, minute := mi, hour := ho } : DateTime).days = t.days := fun _ _ _ => rfl
  unfold DateTime.next
  split
  · show t.days * 86400 + t.hour * 3600 + t.minute * 60 + (t.second + 1) = _
    unfold DateTime.instant
    omega
  · split
    · show t.days * 86400 + t.hour * 3600 + (t.minute + 1) * 60 + 0 = _
      unfold DateTime.instant
      omega
    · split
      · show t.days * 86400 + (t.hour + 1) * 3600 + 0 * 60 + 0 = _
        unfold DateTime.instant
        omega
      · have hx : ({ t with second := 0, minute := 0, hour := 0 } : DateTime).exists_ = true := by
          obtain ⟨a, b, c, _⟩ := (exists_iff t).mp h
          exact (exists_iff _).mpr ⟨a, b, c, Nat.zero_le _, Nat.zero_le _, Nat.zero_le _⟩
        have hn := nextDate_days hx
        have hc : ∀ x : DateTime, x.nextDate.hour = x.hour ∧ x.nextDate.minute = x.minute ∧ x.nextDate.second = x.second := by
          intro x
          unfold DateTime.nextDate
          split
          · exact ⟨rfl, rfl, rfl⟩
          · split <;> exact ⟨rfl, rfl, rfl⟩
        obtain ⟨c1, c2, c3⟩ := hc { t with second := 0, minute := 0, hour := 0 }
        unfold DateTime.instant
        rw [hn, c1, c2, c3, hdays 0 0 0]
        dsimp only
        omega

/-- The months have at least 28 days. -/
theorem monthDays_pos {year month : Nat} (h1 : 1 ≤ month) (h2 : month ≤ 12) : 28 ≤ monthDays year month := by
  have hf := february year
  interval_cases month <;> first
    | (rw [hf]; split <;> omega)
    | (show 28 ≤ 31; omega)
    | (show 28 ≤ 30; omega)

/-- The next second of a reading other than the last is a reading (R138, R139). -/
theorem next_exists {t : DateTime} (h : t.exists_ = true) (hl : t ≠ DateTime.last) : t.next.exists_ = true := by
  obtain ⟨⟨hy1, hy2⟩, ⟨hm1, hm2⟩, ⟨hd1, hd2⟩, hh, hmi, hs⟩ := (exists_iff t).mp h
  unfold DateTime.next
  split
  · exact (exists_iff _).mpr ⟨⟨hy1, hy2⟩, ⟨hm1, hm2⟩, ⟨hd1, hd2⟩, hh, hmi, by dsimp only; omega⟩
  · split
    · exact (exists_iff _).mpr ⟨⟨hy1, hy2⟩, ⟨hm1, hm2⟩, ⟨hd1, hd2⟩, hh, by dsimp only; omega, by dsimp only; omega⟩
    · split
      · exact (exists_iff _).mpr ⟨⟨hy1, hy2⟩, ⟨hm1, hm2⟩, ⟨hd1, hd2⟩, by dsimp only; omega, by dsimp only; omega,
          by dsimp only; omega⟩
      · unfold DateTime.nextDate
        dsimp only
        split
        · exact (exists_iff _).mpr ⟨⟨hy1, hy2⟩, ⟨hm1, hm2⟩, ⟨by dsimp only; omega, by dsimp only; omega⟩,
            by dsimp only; omega, by dsimp only; omega, by dsimp only; omega⟩
        · split
          · have := monthDays_pos (year := t.year) (month := t.month + 1) (by omega) (by omega)
            exact (exists_iff _).mpr ⟨⟨hy1, hy2⟩, ⟨by dsimp only; omega, by dsimp only; omega⟩,
              ⟨Nat.le_refl _, by dsimp only; omega⟩, by dsimp only; omega, by dsimp only; omega, by dsimp only; omega⟩
          · have hy : t.year ≠ 2099 := by
              intro hy
              have hm : t.month = 12 := by omega
              have h31 : monthDays t.year t.month = 31 := by rw [hm]; rfl
              apply hl
              cases t
              simp only [DateTime.last, DateTime.mk.injEq] at *
              omega
            exact (exists_iff _).mpr ⟨⟨by dsimp only; omega, by dsimp only; omega⟩, ⟨Nat.le_refl _, by dsimp only; omega⟩,
              ⟨Nat.le_refl _, by show 1 ≤ 31; omega⟩, by dsimp only; omega, by dsimp only; omega, by dsimp only; omega⟩

/-- No reading lies after the last one. -/
theorem instant_le_last {t : DateTime} (h : t.exists_ = true) : t.instant ≤ DateTime.last.instant := by
  obtain ⟨⟨hy1, hy2⟩, ⟨hm1, hm2⟩, ⟨hd1, hd2⟩, hh, hmi, hs⟩ := (exists_iff t).mp h
  have hlast : DateTime.last.instant = 3155759999 := by decide
  have hd : daysBeforeMonth t.year t.month + (t.date - 1) ≤ 336 + monthDays t.year 2 := by
    obtain ⟨e1, e2, er⟩ := daysBeforeMonth_eq t.year
    obtain ⟨e3, e4, e5, e6, e7, e8, e9, e10, e11, e12⟩ := er _ rfl
    have hf := february t.year
    have hf28 : 28 ≤ monthDays t.year 2 := by rw [hf]; split <;> omega
    generalize t.month = m at *
    interval_cases m <;> first
      | (have h31 : monthDays t.year 2 = monthDays t.year 2 := rfl; omega)
      | (simp only [monthDays] at hd2 hf28 hf e3 e4 e5 e6 e7 e8 e9 e10 e11 e12 ⊢; omega)
  have hf := february t.year
  have hb : t.days ≤ 36524 := by
    unfold DateTime.days daysBeforeYear
    rw [hf] at hd
    split at hd <;> omega
  rw [hlast]
  unfold DateTime.instant
  omega

end Sys2Proof.Machine
end

