-- ==== Sys2Proof/Tests/Slice0.lean ====
section
/-! SUPPORT. The author's tests: the smoke test of WellFormed, a few facts the spec gives in figures, and, for each statement
with hypotheses, a state and operands that meet them (`test_meets_<statement>`), clause by clause. -/

namespace Sys2Proof.Tests

-- One test after another: each waits for the kernel, and each that waits would keep a thread of its own.
set_option Elab.async false

open Sys2Proof.Machine

/-! ## WellFormed -/

theorem test_ill_formed_primeLimit : (Instr.primeLimit 6).wellFormed = false := by decide

theorem test_ill_formed_loopReturn : (Instr.loopReturn 7).wellFormed = false := by decide

theorem test_ill_formed_cueNaturalEnd : (Instr.cueNaturalEnd 6).wellFormed = false := by decide

theorem test_ill_formed_rampEnd : (Instr.rampEnd 100).wellFormed = false := by decide

theorem test_well_formed_voice : (Instr.rampEnd 5).wellFormed = true := by decide

theorem test_no_word_decodes : decodeTableWord 16 0x0100 = none := rfl

/-! ## States the tests are about -/

/-- The chip in RUN with a volume of two slots, of 1 and 2 KiB an image, READY and the sequencer idle. -/
def quiet : Ef24 :=
  { Ef24.reset with save := { Save.reset with volume := .ready, slotCount := 2, sizes := [1, 2] } }

/-- A machine with a given chip and no command waiting. -/
def machine (u : Ef24) : State := { u with pending := [] }

/-- A frame stands in the Command Buffer, executing. -/
def framed (u : Ef24) (ws : List Word) : State :=
  machine { u with command := { CommandUnit.reset with state := .executing, frame := ws } }

/-- The Window Table holds one window, in block 16: entry 3. -/
def windowed (u : Ef24) (kind : BitVec 4) (bankSelect : Bool) (count : BitVec 8) : Ef24 :=
  let e := { WindowEntry.unused with base := 16, kind := kind, bankSelect := bankSelect, count := count }
  { u with windows := (Vector.replicate 16 WindowEntry.unused).setIfInBounds 3 e }

/-- The address of a word offset in block 16. -/
def inWindow (offset : Nat) : Address := BitVec.ofNat 20 (65536 + 2 * offset)

/-- The address of a port of the aperture. -/
def port (offset : Nat) : Address := BitVec.ofNat 20 (0xFF000 + 2 * offset)

/-- The chip in ENTERING_SLEEP, kept there by a load that is being checked. -/
def entering (u : Ef24) : Ef24 :=
  { u with
    chip := some .enteringSleep
    loader := some { phase := .checking, table := .windows, first := 0, count := 1, source := none, staged := [] } }

/-- The chip in ASLEEP. -/
def asleep : Ef24 := { quiet with chip := some .asleep }

/-- A sequencer step that lasts. -/
def busy : Ef24 := { quiet with save := { quiet.save with sequencer := .scanning 0 512 0 0xFFFF } }

/-- Quiet, but for the volume state. -/
def volumeIn (v : VolumeState) : Ef24 := { quiet with save := { quiet.save with volume := v } }

/-- A VALID slot record of two bytes. -/
def validRecord : SlotRecord := { SlotRecord.empty 1 with valid := true, dataLength := 2 }

/-- Slot 0 VALID. -/
def filled : Ef24 :=
  let slots := quiet.save.slots.setIfInBounds 0 { Slot.reset with record := validRecord }
  { quiet with save := { quiet.save with slots := slots } }

/-- A sampled cue of 16 PCM8 samples, without a loop. -/
def sampled : CueEntry := { CueEntry.empty with format := 1, length := 16, rate := 32768 }

/-- A TONE cue of 16 ms. -/
def tone : CueEntry := { CueEntry.empty with length := 16, rate := 500 }

/-- Cue 0 sampled, cue 1 a TONE. -/
def cued (u : Ef24) : Ef24 :=
  { u with sound := { u.sound with cues := (u.sound.cues.setIfInBounds 0 sampled).setIfInBounds 1 tone } }

/-- A play of cue 0 at a priority. -/
def playAt (priority : Nat) : Play := { cue := 0, entry := sampled, priority := priority, order := priority }

/-- A voice in a state, with a play at a priority. -/
def voiceIn (state : VoiceState) (priority : Nat) : Voice :=
  { Voice.reset with state := state, play := playAt priority }

/-- Every voice as given. -/
def voiced (u : Ef24) (v : Voice) : Ef24 := { u with sound := { u.sound with voices := Vector.replicate 6 v } }

/-- Voice 2 as given, the others PLAYING at priority 7. -/
def mixedVoices (v : Voice) : Ef24 :=
  let u := voiced (cued quiet) (voiceIn .playing 7)
  { u with sound := { u.sound with voices := u.sound.voices.setIfInBounds 2 v } }

/-- Pattern 0 with two steps of five ticks and one play. -/
def patterned (u : Ef24) : Ef24 :=
  let headers := u.rumble.headers.setIfInBounds 0 { Header.empty with stepCount := 2, notify := true }
  let steps := Vector.replicate 512 { PatternStep.empty with strength := 8, duration := 5 }
  { u with rumble := { u.rumble with headers := headers, steps := steps } }

/-- A request for pattern 0. -/
def requestAt (priority arrival : Nat) : Request :=
  { pattern := 0, priority := priority, source := .command, voice := none, notify := true, arrival := arrival }

/-- Pattern 0 plays at a priority, at a step with ticks left and plays left, with requests queued. -/
def playing (u : Ef24) (priority step ticks : Nat) (plays : Option Nat) (queue : List Request) : Ef24 :=
  let p := patterned u
  { p with rumble := { p.rumble with
      playing := some { request := requestAt priority 0, step := step, ticksLeft := ticks, playsLeft := plays }
      queue := queue } }

/-- A full queue at priorities 2, 1, 0, 0. -/
def fullQueue : List Request := [requestAt 2 1, requestAt 1 2, requestAt 0 3, requestAt 0 4]

/-- The calendar set, in 2001. -/
def dated (u : Ef24) (now : DateTime) : Ef24 :=
  { u with calendar := { u.calendar with valid := true, now := now, high := now.instant } }

/-- A date and time in 2001. -/
def in2001 (month date hour minute second : Nat) : DateTime :=
  { year := 2001, month := month, date := date, hour := hour, minute := minute, second := second }

/-- The supply in a state, with VCC at a level and a hold timer running for it. -/
def supplied (u : Ef24) (s : Supply) (millivolts : Nat) : Ef24 :=
  { u with power := { u.power with supply := s, vcc := millivolts } }

/-- The core held in reset. -/
def held : Ef24 := { quiet with chip := none, crstLow := true }

/-- The chip HALTED in FAILING. -/
def halted : Ef24 := supplied { quiet with chip := some .halted } .failing 2500

/-- A claim on the SRAM port that stands, with an access in progress or none. -/
def claiming (c : Claim) (port : Option Claim) : Ef24 :=
  let posted : List Posted := if c = .drain then [{ address := 512, data := 7, slot := 0 }] else []
  let ops : List FlagOp :=
    if c = .flag then [{ kind := .set, fromCommand := false, first := 0, count := 1, nextWord := 0, polarity := false,
                         tally := 0 }] else []
  { quiet with save := { quiet.save with
      buffer := posted, flags := ops, port := port
      sequencer := if c = .sequencer then .closing true 0 [(144, 0)] else .idle } }

/-! ## What `Option` hypotheses mean -/

theorem for_some {α : Type} {o : Option α} {p : α → Prop} [DecidablePred p] (h : o.all (fun x => decide (p x)) = true) :
    ∀ x, o = some x → p x := by
  intro x hx
  subst hx
  simpa using h

theorem with_some {α : Type} {o : Option α} {p : α → Prop} [DecidablePred p] (h : o.any (fun x => decide (p x)) = true) :
    ∃ x, o = some x ∧ p x := by
  cases o with
  | none => simp at h
  | some x => exact ⟨x, rfl, by simpa using h⟩

/-! ## Figures the spec gives -/

/-- The first read of STATUS after the reset: volume RECOVERING, chip RUN, nothing queued, IDLE (R37, section 13.1). -/
theorem test_status_after_reset : Ef24.reset.statusWord = 0x1000 := by decide +kernel

/-- A CRC takes each word's bits 15 to 0; of the ASCII words of 12345678 it is A12Bh (R106). -/
theorem test_crc : [0x3132, 0x3334, 0x3536, 0x3738].foldl crcWord 0xFFFF = 0xA12B := by decide +kernel

/-- 2000-02-29 exists, 2001-02-29 does not, and 2099-12-31 23:59:59 is the last reading (R138). -/
theorem test_leap_days :
    (DateTime.exists_ { year := 2000, month := 2, date := 29, hour := 0, minute := 0, second := 0 } = true) ∧
      ((in2001 2 29 0 0 0).exists_ = false) ∧ DateTime.last.exists_ = true := by decide +kernel

/-- 2000-01-01 was a Saturday (R138). -/
theorem test_weekday : DateTime.epoch.weekday = 6 := by decide +kernel

/-- SUPPLY READ after the reset answers OK with one word, the code of GOOD (R183). -/
theorem test_supply_read_after_reset :
    (framed Ef24.reset [0x4A00]).settled.supplyRead.command.response = [0x0001, 0x0002] := by decide +kernel

/-- An opcode that names no command is answered BAD_OPCODE alone (R34). -/
theorem test_bad_opcode : (framed quiet [0x0F00]).settled.answerBadOpcode.command.response = [0x1000] := by
  decide +kernel

/-! ## The hypotheses of the statements are met: the machine -/

theorem test_meets_StepRunsFrontCommand : State.reset.pending = [] := rfl

/-- A claim of each kind that stands, with its access in progress or not; no claim; a claim in progress that stands no more. -/
theorem test_meets_SettleAndConcludeTouchOnlyDerived :
    (Ef24.reset.nothingDue = true ∧ Ef24.reset.coreRunning = true ∧ held.coreRunning = false) ∧
    (∀ c ∈ [Claim.drain, .flag, .sequencer], (claiming c (some c)).save.port = some c ∧
      (claiming c (some c)).claimStands c = true ∧ (claiming c none).conclude.save.port = some c) ∧
    (quiet.save.buffer = [] ∧ quiet.save.flags = [] ∧ quiet.save.wants = false ∧ quiet.conclude.save.port = none) ∧
    (let u := claiming .drain (some .sequencer)
     u.claimStands .sequencer = false ∧ u.conclude.save.port = some .drain) ∧
    (let u := supplied (claiming .drain (some .drain)) .failing 2500
     u.save.buffer ≠ [] ∧ u.conclude.save.port = none) := by
  refine ⟨?_, ?_, ?_, ?_, ?_⟩ <;> decide +kernel

/-- The queue holds 0, 15 and 16 records. -/
theorem test_meets_PostJoinsOrOverflows :
    Ef24.reset.events.queue.length < 16 ∧
      (Ef24.reset.postAll (List.replicate 15 (.user, 0, 0))).events.queue.length < 16 ∧
      16 ≤ (Ef24.reset.postAll (List.replicate 16 (.user, 0, 0))).events.queue.length := by decide +kernel

theorem test_meets_StepKeepsSramCanonical :
    State.reset.sramCanonical ∧ ∃ t, step { State.reset with pending := [.sequencerAccess] } = .next t :=
  ⟨⟨List.Pairwise.nil, fun _ h => by cases h⟩, _, rfl⟩

theorem test_meets_StepKeepsQueuesWithinPlaces :
    (State.reset.queuesFit) ∧ ∃ t, step { State.reset with pending := [.sequencerAccess] } = .next t :=
  ⟨by unfold Ef24.queuesFit; decide +kernel, _, rfl⟩

theorem test_meets_StepKeepsDriveWithinCeiling :
    ((playing quiet 3 0 5 (some 0) []).driveLimited ∧
      ∃ t, step { machine (playing quiet 3 0 5 (some 0) []) with pending := [.tick] } = .next t) ∧
    (let u := { quiet with save := { quiet.save with guard := true } }
     u.driveLimited ∧ u.coreRunning = true ∧ u.save.guard = true) :=
  ⟨⟨by unfold Ef24.driveLimited; decide +kernel, _, rfl⟩, by unfold Ef24.driveLimited; decide +kernel⟩

theorem test_meets_StepKeepsChipWithSupply :
    (held.chipFollowsSupply ∧ ∃ t, step { machine held with pending := [.crstRelease] } = .next t) ∧
      halted.chipFollowsSupply :=
  ⟨⟨by unfold Ef24.chipFollowsSupply; decide +kernel, _, rfl⟩, by unfold Ef24.chipFollowsSupply; decide +kernel⟩

theorem test_meets_StepKeepsCalendarConsistent :
    (dated quiet (in2001 12 31 23 59 59)).calendar.consistent ∧
      ∃ t, step { machine (dated quiet (in2001 12 31 23 59 59)) with pending := [.calendarSecond] } = .next t :=
  ⟨by unfold Calendar.consistent; decide +kernel, _, rfl⟩

/-! ## Console transactions -/

/-- The first and the last word of the default ROM window. -/
theorem test_meets_RomReadGivesBankWord :
    State.reset.settled.opensAs 0 0 .rom ∧ State.reset.settled.opensAs 0xFEFFE 0 .rom := by
  unfold Ef24.opensAs; decide +kernel

/-- The last word of the image and the first past it, a slot EMPTY and VALID, the last word of the flag page and the first
past it. -/
theorem test_meets_SaveAndFlagReadsServe :
    (let u := (machine (windowed filled 2 false 0)).settled
     u.opensAs (inWindow 511) 3 .saveStage ∧ 511 < u.save.slotWords 0 ∧ u.opensAs (inWindow 512) 3 .saveStage ∧
       ¬ 512 < u.save.slotWords 0) ∧
    (let u := (machine (windowed filled 3 false 0)).settled
     u.opensAs (inWindow 511) 3 .saveLive ∧ (u.save.slot 0).record.valid = true) ∧
    (let u := (machine (windowed quiet 3 false 0)).settled
     u.opensAs (inWindow 0) 3 .saveLive ∧ (u.save.slot 0).record.valid = false) ∧
    (machine (windowed quiet 4 false 0)).settled.opensAs (inWindow 255) 3 .flags ∧
    (machine (windowed quiet 4 false 0)).settled.opensAs (inWindow 256) 3 .flags := by
  unfold Ef24.opensAs; decide +kernel

/-- Each view; a slot of a later slot's images; two entries for an address with another behind them. -/
theorem test_meets_SaveAndFlagReadsServe_views :
    (Slot.reset.phase = .none ∧ Slot.reset.record.valid = false ∧ Slot.reset.stagingImage = .a) ∧
    (∀ live ∈ [Image.a, .b],
      let x := { Slot.reset with record := { validRecord with live := live } }
      x.phase = .none ∧ x.record.valid = true ∧ x.stagingImage = live.other ∧
        ({ x with phase := .intentWritten live } : Slot).stagingImage = live) ∧
    (quiet.save.slotWords 1 = 1024 ∧ imageBase quiet.save.sizes 1 .a = 1536 ∧ imageBase quiet.save.sizes 1 .b = 2560) ∧
    (let entry (a : Nat) (w : Word) : Posted := { address := a, data := w, slot := 0 }
     newestPosted [entry 512 1, entry 512 2, entry 513 3] 512 = some 2 ∧ newestPosted [entry 512 1] 513 = none) := by
  refine ⟨?_, ?_, ?_, ?_⟩ <;> decide +kernel

theorem test_meets_BankAndTriggerWrites :
    ((machine (windowed quiet 1 true 3)).settled.opensAs (inWindow 0) 3 .rom ∧
      ((machine (windowed quiet 1 true 3)).settled.window 3).bankCount = 4) ∧
    ((machine (windowed quiet 1 false 3)).settled.opensAs (inWindow 0) 3 .rom) ∧
    ((machine (windowed quiet 5 false 64)).settled.opensAs (inWindow 0) 3 .trigger ∧
      ((machine (windowed quiet 5 false 64)).settled.window 3).actionCount = 64) ∧
    ((machine (windowed asleep 5 false 64)).settled.opensAs (inWindow 0) 3 .trigger) := by
  unfold Ef24.opensAs; decide +kernel

/-- The last word of the image and the first past it; each step that drops a write, is disturbed by it, or leaves it alone; a
full buffer. -/
theorem test_meets_StageWritePostsOrDrops :
    (∀ offset ∈ [511, 512], (machine (windowed quiet 2 false 0)).settled.opensAs (inWindow offset) 3 .saveStage) ∧
    (machine (windowed quiet 2 false 0)).settled.save.slotWords 0 = 512 ∧
    (∀ q ∈ [Sequencer.intent true 0 validRecord [(144, 1)], .switching true 0 validRecord [(16, 1)],
        .closing true 0 [(144, 0)], .commitDraining 0 4, .scanning 0 512 0 0xFFFF, .guarding 0 4 0, .seedDraining 0,
        .copying 0 0 none, .idle],
      let u := windowed { quiet with save := { quiet.save with sequencer := q } } 2 false 0
      u.opensAs (inWindow 0) 3 .saveStage ∧ (u.window 3).slot = 0 ∧ u.save.sequencer = q) ∧
    (let full : List Posted := List.replicate 8 { address := 512, data := 7, slot := 0 }
     let u := (machine (windowed { quiet with save := { quiet.save with buffer := full } } 2 false 0)).settled
     u.opensAs (inWindow 0) 3 .saveStage ∧ 8 ≤ u.save.buffer.length) := by
  unfold Ef24.opensAs
  refine ⟨?_, ?_, ?_, ?_⟩ <;> decide +kernel

theorem test_meets_IgnoredWritesChangeNothing :
    (let u := (machine (windowed quiet 3 false 0)).settled
     u.coreRunning = true ∧ u.windowOf (blockOf 0) = none ∧ u.opensAs (inWindow 0) 3 .saveLive) ∧
    (machine (windowed quiet 4 false 0)).settled.opensAs (inWindow 0) 3 .flags ∧
    (let u := (machine (windowed quiet 1 false 0)).settled
     u.opensAs (inWindow 0) 3 .rom ∧ (u.window 3).bankSelect = false) ∧
    (machine (windowed quiet 5 false 64)).settled.opensAs (inWindow 0) 3 .trigger ∧
    (∀ offset ∈ [0, 1, 2, 3, 4, 5], State.reset.settled.opensAs (port offset) 15 .control ∧
      (State.reset.settled.window 15).wordOffset (port offset) = offset) := by
  unfold Ef24.opensAs; decide +kernel

theorem test_meets_HeldCoreDecodesNothing :
    (machine held).settled.coreRunning = false ∧ (machine halted).settled.coreRunning = false ∧
      Instr.romRead 0 ∈ readRows 0 ∧ Instr.commandWrite 0 0 ∈ writeRows 0 0 := by decide +kernel

/-- A Command Unit in a state, with one response word of two read. -/
def unitIn (state : CommandState) (taken : Nat) : State :=
  machine { quiet with command := { CommandUnit.reset with
    state := state, frame := [0x1002], expected := 2, response := [0x0001, 0x0002], taken := taken } }

theorem test_meets_CommandWriteCollectsFrame :
    ∀ state ∈ [CommandState.idle, .collecting, .executing, .responding],
      (unitIn state 0).settled.opensAs (port 0) 15 .control ∧
        ((unitIn state 0).settled.window 15).wordOffset (port 0) = 0 ∧ (unitIn state 0).settled.command.state = state := by
  unfold Ef24.opensAs; decide +kernel

theorem test_meets_ResponseReadPops :
    (∀ offset ∈ [1, 4], (unitIn .responding 0).settled.opensAs (port offset) 15 .control ∧
      ((unitIn .responding 0).settled.window 15).wordOffset (port offset) = offset ∧
      (unitIn .responding 0).settled.command.state = .responding) ∧
    (unitIn .responding 0).settled.command.taken + 1 < (unitIn .responding 0).settled.command.response.length ∧
    (unitIn .responding 1).settled.command.response.length ≤ (unitIn .responding 1).settled.command.taken + 1 ∧
    (unitIn .idle 0).settled.command.state ≠ .responding := by
  unfold Ef24.opensAs; decide +kernel

theorem test_meets_StatusReadReportsAndClears :
    State.reset.settled.opensAs (port 2) 15 .control ∧ (State.reset.settled.window 15).wordOffset (port 2) = 2 ∧
      State.reset.settled.events.queue.length ≤ 16 := by
  unfold Ef24.opensAs; decide +kernel

/-- A load of one schedule entry in a phase, with words received. -/
def loading (phase : LoadPhase) (staged : List Word) : Ef24 :=
  { quiet with loader := some { phase := phase, table := .schedule, first := 0, count := 1, source := none,
                                staged := staged } }

theorem test_meets_DataWriteFeedsLoad :
    (let u := (machine (loading .receiving [0, 0, 0])).settled
     u.opensAs (port 3) 15 .control ∧ (u.window 15).wordOffset (port 3) = 3 ∧
       ∃ l, u.loader = some l ∧ l.phase = .receiving) ∧
    (∀ l, (machine (loading .checking [])).settled.loader = some l → l.phase ≠ .receiving) ∧
    (∀ l, (machine quiet).settled.loader = some l → l.phase ≠ .receiving) :=
  ⟨⟨by unfold Ef24.opensAs; decide +kernel, by decide +kernel, with_some (by decide +kernel)⟩,
    for_some (by decide +kernel), for_some (by decide +kernel)⟩

/-! ## Frames -/

theorem test_meets_FrameChecksInOrder :
    ((framed quiet [0x0F00]).settled.frameWaits = true ∧
      ∀ c : Command, c.opcode ≠ (framed quiet [0x0F00]).settled.command.opcode) ∧
    (let u := (framed quiet [0x1000]).settled
     u.executes .cuePlay = true ∧ Command.cuePlay.accepts u.command.argCount = false) ∧
    (let u := (framed asleep [0x1001, 0]).settled
     u.executes .cuePlay = true ∧ Command.cuePlay.accepts u.command.argCount = true ∧ u.chip = some .asleep ∧
       Command.cuePlay.takenAsleep = false) ∧
    (List.replicate 31 (0 : Word)).length ≤ 31 := by
  have e : (framed quiet [0x0F00]).settled.command.opcode = 0x0F := by decide +kernel
  refine ⟨⟨by decide +kernel, ?_⟩, by decide +kernel, by decide +kernel, by decide⟩
  rw [e]
  intro c
  cases c <;> decide

theorem test_meets_StatusQueryAnswersFourWords :
    (framed quiet [0x0100]).settled.passes .statusQuery ∧ (framed asleep [0x0100]).settled.passes .statusQuery := by
  unfold Ef24.passes; decide +kernel

/-- An id that names no table, no entries, one entry too many, the last entry. -/
theorem test_meets_TableReadAnswersImages :
    (∀ ws ∈ [[0x0203, 6, 0, 1], [0x0203, 0, 0, 0], [0x0203, 0, 15, 2], [0x0203, 0, 15, 1]],
      (framed quiet ws).settled.passes .tableRead) ∧
    tableOfId ((framed quiet [0x0203, 6, 0, 1]).settled.arg 0) = none ∧
    (framed quiet [0x0203, 0, 0, 0]).settled.arg 2 = 0 ∧
    (let u := (framed quiet [0x0203, 0, 15, 2]).settled
     tableOfId (u.arg 0) = some .windows ∧ u.arg 2 ≠ 0 ∧ TableId.entries .windows < u.arg 1 + u.arg 2) ∧
    (let u := (framed quiet [0x0203, 0, 15, 1]).settled
     tableOfId (u.arg 0) = some .windows ∧ u.arg 2 ≠ 0 ∧ u.arg 1 + u.arg 2 ≤ TableId.entries .windows) := by
  unfold Ef24.passes; decide +kernel

theorem test_meets_LoadTableStartsLoad :
    (let u := (framed (entering quiet) [0x0305, 0, 0, 1, 0, 0]).settled
     u.passes .loadTable ∧ u.chip = some .enteringSleep) ∧
    (let u := (framed quiet [0x0305, 0, 0, 1, 2, 0]).settled
     u.passes .loadTable ∧ u.chip ≠ some .enteringSleep ∧ 2 ≤ u.arg 3 % 256) ∧
    (∀ ws ∈ [[0x0305, 0, 15, 1, 0, 0], [0x0305, 0, 15, 1, 1, 0], [0x0305, 0, 15, 2, 0, 0]],
      (framed quiet ws).settled.passes .loadTable ∧ (framed quiet ws).settled.chip ≠ some .enteringSleep ∧
        tableOfId ((framed quiet ws).settled.arg 0) = some .windows ∧ (framed quiet ws).settled.arg 3 % 256 < 2 ∧
        (framed quiet ws).settled.arg 2 ≠ 0) := by
  unfold Ef24.passes; decide +kernel

theorem test_meets_LoadAbortEndsOpenLoad :
    ((framed (loading .receiving []) [0x0400]).settled.passes .loadAbort ∧
      ∃ l, (framed (loading .receiving []) [0x0400]).settled.loader = some l ∧
        (l.phase = .receiving ∨ l.phase = .fetching)) ∧
    ((framed (loading .checking []) [0x0400]).settled.passes .loadAbort ∧
      ∀ l, (framed (loading .checking []) [0x0400]).settled.loader = some l → l.phase = .checking) :=
  ⟨⟨by unfold Ef24.passes; decide +kernel, with_some (by decide +kernel)⟩, by unfold Ef24.passes; decide +kernel,
    for_some (by decide +kernel)⟩

theorem test_meets_ActionRunDispatches :
    ∀ ws ∈ [[0x0801, 0], [0x0801, 63], [0x0801, 64]], (framed quiet ws).settled.passes .actionRun := by
  unfold Ef24.passes; decide +kernel

/-- The ends of a chain and a link of it; PLAY_CUE of an empty cue, outside RUN, without a voice, and on each kind of voice; a
flag request without a volume, with the list full, and taken. -/
theorem test_meets_DispatchWalksChain :
    (Ef24.reset.action 0).kindNamed = some .invalid ∧ (ActionEntry.kindNamed { ActionEntry.invalid with kind := 15 }) = none ∧
    (let u := { quiet with actions := Vector.replicate 64 { ActionEntry.invalid with kind := 3, next := 1 } }
     (u.action 0).kindNamed = some .silence ∧ ActionKind.silence ≠ .invalid) ∧
    (quiet.sound.cue 0).length = 0 ∧
    ((entering (cued quiet)).chip ≠ some .run ∧ ((entering (cued quiet)).sound.cue 0).length ≠ 0) ∧
    (mixedVoices (voiceIn .playing 7)).sound.allocate 0 = none ∧
    (∀ x ∈ [(Voice.reset, Allocation.free 2), (voiceIn .releasing 7, .releasing 2), (voiceIn .playing 0, .steal 2)],
      (mixedVoices x.1).chip = some .run ∧ (mixedVoices x.1).sound.allocate 0 = some x.2) ∧
    (((cued quiet).sound.cue 0).isTone = false ∧ ((cued quiet).sound.cue 1).isTone = true) ∧
    ((volumeIn .unformatted).save.volume ≠ .ready ∧ quiet.save.volume = .ready ∧
      8 ≤ ((List.replicate 8 (FlagOp.new .set false 0 1 false)).filter (fun op => !op.fromCommand)).length) := by
  refine ⟨?_, ?_, ?_, ?_, ?_, ?_, ?_, ?_, ?_⟩ <;> decide +kernel

/-! ## Sound -/

theorem test_meets_CuePlayAllocatesVoice :
    ((framed (cued quiet) [0x1002, 0, 8]).settled.passes .cuePlay ∧
      (framed (cued quiet) [0x1002, 0, 8]).settled.arg 1 = 8) ∧
    (let u := (framed quiet [0x1001, 0]).settled
     u.passes .cuePlay ∧ u.arg 0 < 128 ∧ (u.sound.cue 0).length = 0) ∧
    (let u := (framed quiet [0x1002, 128, 7]).settled
     u.passes .cuePlay ∧ 128 ≤ u.arg 0 ∧ u.arg 1 = 7) ∧
    (let u := (framed (entering (cued quiet)) [0x1001, 0]).settled
     u.passes .cuePlay ∧ (u.sound.cue 0).length ≠ 0 ∧ u.chip ≠ some .run) ∧
    (let u := (framed (mixedVoices (voiceIn .playing 7)) [0x1001, 0]).settled
     u.passes .cuePlay ∧ (u.sound.cue 0).length ≠ 0 ∧ u.sound.allocate 0 = none) ∧
    (let u := (framed (mixedVoices Voice.reset) [0x1001, 0]).settled
     u.passes .cuePlay ∧ u.chip = some .run ∧ u.sound.allocate 0 = some (.free 2) ∧ (u.sound.cue 0).isTone = false) ∧
    (let u := (framed (mixedVoices Voice.reset) [0x1001, 1]).settled
     u.passes .cuePlay ∧ u.sound.allocate 0 = some (.free 2) ∧ (u.sound.cue 1).isTone = true ∧
       (u.sound.cue 1).length ≠ 0) ∧
    (let u := (framed (mixedVoices (voiceIn .releasing 7)) [0x1001, 0]).settled
     u.passes .cuePlay ∧ u.chip = some .run ∧ u.sound.allocate 0 = some (.releasing 2)) ∧
    (let u := (framed (mixedVoices (voiceIn .playing 0)) [0x1001, 0]).settled
     u.passes .cuePlay ∧ u.chip = some .run ∧ u.sound.allocate 0 = some (.steal 2)) ∧
    (sampled.linked = 255 ∧ ({ sampled with linked := 31 } : CueEntry).linked ≠ 255) := by
  unfold Ef24.passes
  refine ⟨?_, ?_, ?_, ?_, ?_, ?_, ?_, ?_, ?_, ?_⟩ <;> decide +kernel

/-- A FREE voice; a RELEASING one without a next cue; one of no higher priority; none of the three. -/
theorem test_meets_AllocationPrefersFreeThenReleasingThenWeakest :
    Sound.reset.allocate 0 = some (.free 0) ∧
      (mixedVoices (voiceIn .releasing 7)).sound.allocate 0 = some (.releasing 2) ∧
      (mixedVoices (voiceIn .priming 3)).sound.allocate 3 = some (.steal 2) ∧
      (let x := (mixedVoices (voiceIn .priming 3)).sound
       (∀ j, j < 6 → (x.voice j).state ≠ .free ∧ (x.voice j).state ≠ .releasing) ∧ (x.voice 2).play.priority ≤ 3) ∧
      (mixedVoices (voiceIn .playing 7)).sound.allocate 0 = none := by decide +kernel

theorem test_meets_StopsAnswerWhatTheyEnded :
    (∀ ws ∈ [[0x1101, 5], [0x1101, 6]], (framed quiet ws).settled.passes .voiceStop) ∧
      (framed quiet [0x1200]).settled.passes .soundStopAll ∧
      (voiceIn .priming 0).state = .priming ∧ (voiceIn .playing 0).state = .playing ∧ Voice.reset.state = .free ∧
      (let v := { voiceIn .releasing 0 with next := some (playAt 0) }
       v.state = .releasing ∧ v.next = some (playAt 0)) ∧
      ((voiceIn .releasing 0).state = .releasing ∧ (voiceIn .releasing 0).next = none) := by
  unfold Ef24.passes; decide +kernel

theorem test_meets_VolumeSetsAndVoicesReport :
    (∀ ws ∈ [[0x1301, 15], [0x1301, 16]], (framed quiet ws).settled.passes .soundVolume) ∧
      (framed quiet [0x1400]).settled.passes .voiceStatus := by
  unfold Ef24.passes; decide +kernel

/-! ## Rumble -/

theorem test_meets_RumbleStartStartsOrQueues :
    (let u := (framed (patterned quiet) [0x1802, 0, 8]).settled
     u.passes .rumbleStart ∧ u.arg 1 = 8) ∧
    (let u := (framed quiet [0x1801, 0]).settled
     u.passes .rumbleStart ∧ u.arg 0 < 32 ∧ u.rumble.playable (u.arg 0) = false) ∧
    (let u := (framed quiet [0x1801, 32]).settled
     u.passes .rumbleStart ∧ u.command.argCount = 1 ∧ 32 ≤ u.arg 0) ∧
    (let u := (framed (entering (patterned quiet)) [0x1801, 0]).settled
     u.passes .rumbleStart ∧ u.rumble.playable (u.arg 0) = true ∧ u.chip = some .enteringSleep) ∧
    (let u := (framed (playing quiet 3 0 5 (some 0) fullQueue) [0x1801, 0]).settled
     u.passes .rumbleStart ∧ u.chip ≠ some .enteringSleep ∧ u.rumble.playable (u.arg 0) = true ∧
       u.rumble.wouldOverflow 0 = true) ∧
    (let p := patterned quiet
     let u := (framed { p with rumble := { p.rumble with enabled := false } } [0x1801, 0]).settled
     u.passes .rumbleStart ∧ u.rumble.playable (u.arg 0) = true ∧ u.rumble.wouldOverflow 0 = false ∧
       u.rumble.enabled = false) ∧
    (let u := (framed (patterned quiet) [0x1801, 0]).settled
     u.passes .rumbleStart ∧ u.rumble.playable (u.arg 0) = true ∧ u.rumble.enabled = true ∧ u.rumble.playing = none) ∧
    (let u := (framed (playing quiet 3 0 5 (some 0) []) [0x1802, 0, 7]).settled
     u.passes .rumbleStart ∧ u.rumble.enabled = true ∧ u.rumble.playing.map (·.request.priority) = some 3 ∧ u.arg 1 = 7) ∧
    (let u := (framed (playing quiet 3 0 5 (some 0) []) [0x1802, 0, 3]).settled
     u.passes .rumbleStart ∧ u.rumble.playing.map (·.request.priority) = some 3 ∧ u.arg 1 = 3 ∧
       u.rumble.queue.length < 4) ∧
    (let u := (framed (playing quiet 3 0 5 (some 0) fullQueue) [0x1802, 0, 2]).settled
     u.passes .rumbleStart ∧ u.rumble.playing.map (·.request.priority) = some 3 ∧ u.arg 1 = 2 ∧
       4 ≤ u.rumble.queue.length ∧ lowestPriority u.rumble.queue < 2 ∧
       displacedOf u.rumble.queue = some (requestAt 0 4)) ∧
    (fullQueue.Pairwise (fun x y => y.priority ≤ x.priority) ∧ fullQueue ≠ [] ∧ ∀ x ∈ fullQueue, x.priority ≤ 7) ∧
    (∀ queue ∈ [[], fullQueue],
      let r := (playing quiet 3 0 5 (some 0) queue).rumble
      r.enabled = true ∧ r.playable 0 = true ∧ r.playing.map (·.request.priority) = some 3 ∧ r.queue = queue) ∧
    (quiet.rumble.playable 0 = false ∧ (patterned quiet).rumble.playable 0 = true ∧ quiet.rumble.playing = none) := by
  unfold Ef24.passes
  refine ⟨?_, ?_, ?_, ?_, ?_, ?_, ?_, ?_, ?_, ?_, ?_, ?_, ?_⟩ <;> decide +kernel

/-- The commands; then the request in hand linked to voice 2, with the queue empty and not, and linked to none. -/
theorem test_meets_RumbleControlsSetAndRemove :
    (framed (playing quiet 3 0 5 (some 0) fullQueue) [0x1900]).settled.passes .rumbleCut ∧
    (∀ ws ∈ [[0x1A01, 0], [0x1A01, 1], [0x1A01, 2]], (framed quiet ws).settled.passes .rumbleEnable) ∧
    (framed quiet [0x1B02, 14, 15]).settled.passes .rumbleLimits ∧
    (∀ voice ∈ [some 2, none], ∀ queue ∈ [[], fullQueue],
      let p : Playing := { request := { requestAt 3 0 with voice := voice }, step := 0, ticksLeft := 5, playsLeft := some 0 }
      let r := { (patterned quiet).rumble with playing := some p, queue := queue }
      r.playing = some p ∧ p.request.voice = voice ∧ r.queue = queue) := by
  unfold Ef24.passes
  refine ⟨?_, ?_, ?_, ?_⟩ <;> decide +kernel

theorem test_meets_RumbleStatusReportsDrive :
    (framed (playing quiet 3 0 5 none fullQueue) [0x1C00]).settled.passes .rumbleStatus := by
  unfold Ef24.passes; decide +kernel

/-! ## Save and flags -/

/-- No slots; RECOVERING; a step in progress; a save window open; none open; a writing cut off after its first word, and before
its last. -/
theorem test_meets_SaveFormatStartsDraining :
    (let u := (framed quiet [0x2002, 0, 1]).settled
     u.passes .saveFormat ∧ u.arg 0 = 0) ∧
    (let u := (framed (volumeIn .recovering) [0x2002, 1, 1]).settled
     u.passes .saveFormat ∧ u.arg 0 = 1 ∧ u.command.argCount = 2 ∧ u.arg 1 = 1 ∧
       ¬ Config.sramKiB u.sramCode < 1 + 2 * 1 ∧ u.save.volume = .recovering) ∧
    (let u := (framed busy [0x2002, 1, 1]).settled
     u.passes .saveFormat ∧ u.save.volume ≠ .recovering ∧ u.save.sequencer ≠ .idle) ∧
    (let u := (framed (windowed quiet 2 false 0) [0x2002, 1, 1]).settled
     u.passes .saveFormat ∧ u.save.sequencer = .idle ∧ (u.window 3).kindNamed = some .saveStage) ∧
    (let u := (framed quiet [0x2002, 1, 15]).settled
     u.passes .saveFormat ∧ u.save.volume ≠ .recovering ∧ u.save.sequencer = .idle ∧
       ¬ ∃ i, i < 16 ∧ ((u.window i).kindNamed = some .saveStage ∨ (u.window i).kindNamed = some .saveLive ∨
         (u.window i).kindNamed = some .flags)) ∧
    (let writes := formatWrites [1] 1
     Memory.wf [] ∧ 1 + 1 < writes.length ∧ 357 + 1 = writes.length ∧
       Memory.read [] 15 ≠ crcOf ([0x5EF2, 1, 1, 1] ++ List.replicate 7 0)) := by
  unfold Ef24.passes
  refine ⟨?_, ?_, ?_, ?_, ?_, ?_⟩ <;> decide +kernel

/-- The frames of the three commands that share their refusals, for a slot. -/
def slotFrames (k : Word) : List (Command × List Word) :=
  [(.slotSeed, [0x2101, k]), (.slotDiscard, [0x2301, k]), (.slotVerify, [0x2401, k])]

/-- The refusals and starts; a writing of the intent record cut off before its first word, and before its last. -/
theorem test_meets_SlotCommandsStart :
    (∀ x ∈ slotFrames 2, (framed quiet x.2).settled.passes x.1 ∧ (framed quiet x.2).settled.save.volume = .ready ∧
      (framed quiet x.2).settled.save.slotCount ≤ (framed quiet x.2).settled.arg 0) ∧
    (∀ x ∈ slotFrames 7, (framed (volumeIn .unformatted) x.2).settled.passes x.1 ∧
      (framed (volumeIn .unformatted) x.2).settled.arg 0 < 8 ∧
      (framed (volumeIn .unformatted) x.2).settled.save.volume ≠ .ready) ∧
    (∀ x ∈ slotFrames 1, (framed busy x.2).settled.passes x.1 ∧
      (framed busy x.2).settled.arg 0 < (framed busy x.2).settled.save.slotCount ∧
      (framed busy x.2).settled.save.sequencer ≠ .idle) ∧
    (∀ x ∈ slotFrames 0, (framed filled x.2).settled.passes x.1 ∧ (framed filled x.2).settled.save.volume = .ready ∧
      (framed filled x.2).settled.save.sequencer = .idle ∧
      ((framed filled x.2).settled.save.slot 0).record.valid = true) ∧
    (∀ x ∈ slotFrames 1, (framed filled x.2).settled.passes x.1 ∧
      ((framed filled x.2).settled.save.slot 1).record.valid = false) ∧
    (let writes := intentRecordWrites 0 (SlotRecord.empty 2) (SlotRecord.empty 1)
     Memory.wf [] ∧ Memory.read [] 144 ≠ 0x5EF2 ∧ 0 + 1 < writes.length ∧ 22 + 1 = writes.length ∧
       Memory.read [] 175 ≠ crcOf ((writes.getD 21 (0, 0)).2 :: (writes.take 21).map (·.2))) := by
  unfold Ef24.passes
  refine ⟨?_, ?_, ?_, ?_, ?_, ?_⟩ <;> decide +kernel

/-- Slot 0 Tainted. -/
def tainted : Ef24 :=
  let slots := quiet.save.slots.setIfInBounds 0 { Slot.reset with tainted := true }
  { quiet with save := { quiet.save with slots := slots } }

/-- An odd length; a slot past the last; no volume; a step in progress; a Tainted slot; a whole image. -/
theorem test_meets_SlotCommitRaisesGuard :
    (let u := (framed quiet [0x2202, 0, 1]).settled
     u.passes .slotCommit ∧ u.arg 1 % 2 = 1) ∧
    (let u := (framed quiet [0x2202, 2, 64512]).settled
     u.passes .slotCommit ∧ u.save.slotCount ≤ u.arg 0 ∧ u.save.volume = .ready ∧ u.arg 1 = 64512) ∧
    (let u := (framed (volumeIn .unformatted) [0x2202, 7, 2]).settled
     u.passes .slotCommit ∧ u.arg 0 < 8 ∧ u.arg 1 = 2 ∧ u.save.volume ≠ .ready) ∧
    (let u := (framed busy [0x2202, 0, 1024]).settled
     u.passes .slotCommit ∧ u.arg 1 = 1024 * u.save.sizes.getD 0 0 ∧ u.save.sequencer ≠ .idle) ∧
    (let u := (framed tainted [0x2202, 0, 1024]).settled
     u.passes .slotCommit ∧ u.save.sequencer = .idle ∧ (u.save.slot 0).tainted = true) ∧
    (let u := (framed quiet [0x2202, 0, 1024]).settled
     u.passes .slotCommit ∧ u.save.sequencer = .idle ∧ (u.save.slot 0).tainted = false) := by
  unfold Ef24.passes
  refine ⟨?_, ?_, ?_, ?_, ?_, ?_⟩ <;> decide +kernel

theorem test_meets_SlotInfoReportsCopy :
    ∀ ws ∈ [[0x2501, 1], [0x2501, 2]], (framed filled ws).settled.passes .slotInfo := by
  unfold Ef24.passes; decide +kernel

theorem test_meets_FlagCommandsJoinList :
    (∀ x ∈ [(Command.flagTest, [(0x2801 : Word), 4095]), (.flagSet, [0x2901, 4096]), (.flagClear, [0x2A01, 0]),
        (.flagToggle, [0x2B01, 0]), (.flagScan, [0x2C03, 0, 4096, 1]), (.flagClearRange, [0x2D02, 1, 4096])],
      (framed quiet x.2).settled.passes x.1) := by
  unfold Ef24.passes; decide +kernel

/-- A flag operation from the command, at flag 15, over two words. -/
def scanOp : FlagOp :=
  { kind := .scan, fromCommand := true, first := 15, count := 2, nextWord := 0, polarity := true, tally := 0 }

/-- Not finished and finished; a word with a match and without; the operation's last turn. -/
theorem test_meets_FlagAccessWritesAndTurns :
    (let u := (machine { quiet with save := { quiet.save with flags := [scanOp], port := some .flag } }).settled
     u.save.port = some .flag ∧ u.save.flags = [scanOp]) ∧
    scanOp.finished 0 = false ∧ scanOp.finished 0x8000 = true ∧ ({ scanOp with nextWord := 1 }).finished 0 = true ∧
    (scanOp.kind = .scan ∧ scanOp.first ≤ 15 ∧ 15 < scanOp.first + scanOp.count ∧
      (0x8000 : Word).getLsbD 15 = scanOp.polarity ∧ ∀ i, i < 16 → (0 : Word).getLsbD i ≠ scanOp.polarity) := by
  refine ⟨?_, ?_, ?_, ?_, ?_⟩ <;> decide +kernel

/-! ## Calendar and timer -/

/-- The frame that sets the clock to a reading. -/
def setFrame (t : DateTime) : List Word :=
  0x3006 :: [t.year, t.month, t.date, t.hour, t.minute, t.second].map word

theorem test_meets_ClockSetFirstForwardBackward :
    (let u := (framed quiet (setFrame (in2001 2 29 0 0 0))).settled
     u.passes .clockSet ∧ (in2001 2 29 0 0 0).exists_ = false ∧ u.arg 1 = 2 ∧ u.arg 2 = 29) ∧
    (let u := (framed quiet (setFrame (in2001 2 28 0 0 0))).settled
     u.passes .clockSet ∧ (in2001 2 28 0 0 0).exists_ = true ∧ u.calendar.valid = false) ∧
    (let u := (framed (dated quiet (in2001 1 1 0 0 0)) (setFrame (in2001 1 1 0 0 0))).settled
     u.passes .clockSet ∧ u.calendar.valid = true ∧ u.calendar.high ≤ (in2001 1 1 0 0 0).instant) ∧
    (let u := (framed (dated quiet (in2001 1 1 0 0 1)) (setFrame (in2001 1 1 0 0 0))).settled
     u.passes .clockSet ∧ u.calendar.valid = true ∧ (in2001 1 1 0 0 0).instant < u.calendar.high) := by
  unfold Ef24.passes
  refine ⟨?_, ?_, ?_, ?_⟩ <;> decide +kernel

theorem test_meets_CalendarReportsAndSettings :
    ∀ x ∈ [(Command.clockRead, [(0x3100 : Word)]), (.gameDayRead, [0x3300]), (.dayStartSet, [0x3201, 23]),
        (.dayStartSet, [0x3201, 24]), (.advanceCapSet, [0x3401, 0]), (.advanceCapSet, [0x3401, 255])],
      (framed quiet x.2).settled.passes x.1 := by
  unfold Ef24.passes; decide +kernel

/-- The Play Timer running, at its last hundredth. -/
def timed : Ef24 := { quiet with calendar := { quiet.calendar with timerRunning := true, timerHundredths := 99 } }

theorem test_meets_PlayTimerCommandsAndHundredth :
    (∀ x ∈ [(Command.timerRun, [(0x3500 : Word)]), (.timerStop, [0x3600]), (.timerClear, [0x3700]), (.timerRead, [0x3800])],
      (framed quiet x.2).settled.passes x.1) ∧
    ((machine timed).settled.calendar.timerRunning = true ∧ (machine timed).settled.chip = some .run) ∧
    (machine quiet).settled.calendar.timerRunning = false := by
  unfold Ef24.passes; decide +kernel

/-! ## Events, sleep, supply -/

theorem test_meets_EventTakeAndMaskSet :
    ∀ x ∈ [(Command.eventTake, [(0x4001 : Word), 0]), (.eventTake, [0x4001, 1]), (.eventTake, [0x4001, 7]),
        (.eventTake, [0x4001, 8]), (.eventMaskSet, [0x4102, 0xFFFF, 3]), (.eventMaskSet, [0x4102, 0, 4])],
      (framed quiet x.2).settled.passes x.1 := by
  unfold Ef24.passes; decide +kernel

theorem test_meets_SleepEntersAndCompletes :
    (let u := (framed (entering quiet) [0x4800]).settled
     u.passes .sleep ∧ u.chip = some .enteringSleep) ∧
    (let u := (framed (playing quiet 3 0 5 none []) [0x4800]).settled
     u.passes .sleep ∧ u.chip = some .run ∧ u.rumble.playing ≠ none) ∧
    (let u := ({ quiet with chip := some .enteringSleep } : Ef24).settleBlocks
     u.chip = some .enteringSleep ∧ u.loader = none ∧ u.save.sequencer = .idle ∧ u.save.buffer = [] ∧
       u.rumble.motor.state = .stopped ∧ ∀ i, i < 6 → (u.sound.voice i).state = .free) ∧
    (∀ state ∈ [VoiceState.free, .priming, .playing, .releasing], (voiceIn state 0).state = state) := by
  unfold Ef24.passes
  refine ⟨?_, ?_, ?_, ?_⟩ <;> decide +kernel

theorem test_meets_WakeDeliversPending :
    ((framed asleep [0x4900]).settled.passes .wake ∧ (framed asleep [0x4900]).settled.chip = some .asleep) ∧
    ((framed quiet [0x4900]).settled.passes .wake ∧ (framed quiet [0x4900]).settled.chip = some .run) ∧
    ((framed (entering quiet) [0x4900]).settled.passes .wake ∧
      (framed (entering quiet) [0x4900]).settled.chip = some .enteringSleep) := by
  unfold Ef24.passes; decide +kernel

theorem test_meets_SupplyReadReports :
    (framed quiet [0x4A00]).settled.passes .supplyRead ∧ (framed asleep [0x4A00]).settled.passes .supplyRead := by
  unfold Ef24.passes; decide +kernel

/-! ## The blocks' own steps -/

/-- A fetch for the Loader at line 8, with words received. -/
def fetching (words : Nat) : Ef24 :=
  { quiet with
    loader := some { phase := .fetching, table := .schedule, first := 0, count := 1, source := some 8, staged := [] }
    romPort := .fetching { requester := .loader, line := 8, words := List.replicate words 0, orphan := false } }

/-- A fetch for voice 2, PRIMING a sampled cue, or orphaned because the voice is FREE. -/
def fetchingFor (state : VoiceState) : Ef24 :=
  let u := mixedVoices (voiceIn state 0)
  { u with romPort := .fetching { requester := .voice 2, line := 0, words := List.replicate 7 0, orphan := false } }

theorem test_meets_LineFetchWordsAndCompletion :
    (∀ n ∈ [0, 6, 7], (machine (fetching n)).settled.coreRunning = true ∧
      (machine (fetching n)).settled.romPort =
        .fetching { requester := .loader, line := 8, words := List.replicate n 0, orphan := false }) ∧
    (machine (fetchingFor .priming)).settled.romPort =
      .fetching { requester := .voice 2, line := 0, words := List.replicate 7 0, orphan := false } ∧
    (machine (fetchingFor .free)).settled.romPort =
      .fetching { requester := .voice 2, line := 0, words := List.replicate 7 0, orphan := true } ∧
    (let v := voiceIn .priming 0
     v.state = .priming ∧ v.play.entry.endWord = 8 ∧ v.fetchPoint = 0) ∧
    (let u := mixedVoices (voiceIn .priming 0)
     u.coreRunning = true ∧ u.romPort = .idle ∧ u.holdsRequest .loader = false ∧
       ∀ j, j < 6 → u.holdsRequest (.voice j) = true ∧ (u.sound.voice j).buffer = []) ∧
    (let u := { fetching 0 with romPort := .idle }
     u.coreRunning = true ∧ u.romPort = .idle ∧ u.holdsRequest .loader = true ∧
       ∀ j, j < 6 → u.holdsRequest (.voice j) = false) ∧
    (quiet.romPort = .idle ∧ quiet.holdsRequest .loader = false ∧ ∀ j, j < 6 → quiet.holdsRequest (.voice j) = false) ∧
    held.coreRunning = false := by
  refine ⟨?_, ?_, ?_, ?_, ?_, ?_, ?_, ?_⟩ <;> decide +kernel

/-- A load of a table that is being checked. -/
def checking (table : TableId) (staged : List Word) : Load :=
  { phase := .checking, table := table, first := 0, count := 1, source := none, staged := staged }

theorem test_meets_TableCheckSwapsOrRefuses :
    (let u := (machine { quiet with loader := some (checking .schedule [9, 0, 0, 0]) }).settled
     u.coreRunning = true ∧ u.loader = some (checking .schedule [9, 0, 0, 0]) ∧
       u.offender (checking .schedule [9, 0, 0, 0]) = some 0) ∧
    (let u := (machine { quiet with loader := some (checking .schedule [0, 0, 0, 0]) }).settled
     u.loader = some (checking .schedule [0, 0, 0, 0]) ∧ u.offender (checking .schedule [0, 0, 0, 0]) = none) ∧
    (∀ t ∈ [TableId.windows, .actions, .cues, .patterns, .steps, .schedule], (checking t []).table = t) := by
  decide +kernel

/-- A sample due with an empty buffer, with a word in hand and with a buffered one; no sample due; the five formats; each state. -/
theorem test_meets_OutputSampleAdvancesAndMixes :
    State.reset.settled.coreRunning = true ∧
    (let v := voiceIn .playing 0
     v.state = .playing ∧ v.play.entry.isTone = false ∧ 32768 ≤ v.phase + v.play.entry.rate.toNat ∧ v.buffer = [] ∧
       v.held = none) ∧
    (let v := { voiceIn .playing 0 with position := 1, held := some (0, 7) }
     v.held = some (v.play.entry.start.toNat + v.position / v.play.entry.perWord, 7)) ∧
    (let v := { voiceIn .playing 0 with position := 2, held := some (0, 7), buffer := [9] }
     v.held ≠ some (v.play.entry.start.toNat + v.position / v.play.entry.perWord, 7) ∧ v.buffer = [9]) ∧
    (let v := { voiceIn .playing 0 with play := { playAt 0 with entry := { sampled with rate := 32767 } } }
     v.phase + v.play.entry.rate.toNat < 32768) ∧
    (∀ x ∈ [((0 : BitVec 3), CueFormat.tone), (1, .pcm8), (2, .pcm16le), (3, .pcm16be), (4, .adpcm4)],
      ({ sampled with format := x.1 } : CueEntry).formatNamed = some x.2) ∧
    (∀ state ∈ [VoiceState.free, .priming, .playing, .releasing], (voiceIn state 0).state = state) := by
  refine ⟨?_, ?_, ?_, ?_, ?_, ?_, ?_⟩ <;> decide +kernel

/-- Voice 2 as given, alone. -/
def alone (v : Voice) : State :=
  let voices := (Vector.replicate 6 Voice.reset).setIfInBounds 2 v
  machine { quiet with sound := { quiet.sound with voices := voices } }

/-- A RELEASING voice whose ramp has reached 0, with a next cue or none. -/
def ramped (next : Option Play) : State := alone { voiceIn .releasing 0 with elapsed := 66, next := next }

theorem test_meets_VoiceEventsHappenWhenDue :
    (let u := (alone { voiceIn .priming 0 with elapsed := 655 }).settled
     u.coreRunning = true ∧ (u.sound.voice 2).state = .priming ∧ 655 ≤ (u.sound.voice 2).elapsed ∧
       (u.sound.voice 2).held = none ∧ (u.sound.voice 2).buffer = []) ∧
    (let u := (alone { voiceIn .priming 0 with elapsed := 655, buffer := [9], held := some (0, 7) }).settled
     (u.sound.voice 2).state = .priming ∧ (u.sound.voice 2).held = some (0, 7) ∧ (u.sound.voice 2).position = 0) ∧
    (let u := (alone { voiceIn .priming 0 with elapsed := 655, buffer := [9] }).settled
     (u.sound.voice 2).state = .priming ∧ (u.sound.voice 2).held = none ∧ (u.sound.voice 2).buffer = [9]) ∧
    (let v := { voiceIn .playing 0 with
       play := { playAt 0 with entry := { sampled with loopNone := false } }, position := 16 }
     (alone v).coreRunning = true ∧ ((alone v).sound.voice 2).loopDue = true) ∧
    (let v := { voiceIn .playing 0 with position := 16 }
     (alone v).coreRunning = true ∧ ((alone v).sound.voice 2).endDue = true) ∧
    (((ramped none).sound.voice 2).state = .releasing ∧ 66 ≤ ((ramped none).sound.voice 2).elapsed ∧
      ((ramped none).sound.voice 2).next = none) ∧
    (((ramped (some (playAt 0))).sound.voice 2).next = some (playAt 0) ∧ (playAt 0).entry.isTone = false) ∧
    ((ramped (some { playAt 0 with entry := tone })).sound.voice 2).next = some { playAt 0 with entry := tone } ∧
      tone.isTone = true := by
  refine ⟨?_, ?_, ?_, ?_, ?_, ?_, ?_, ?_⟩ <;> decide +kernel

/-- Pattern 0 plays its step with no ticks left. -/
def spent (step : Nat) (plays : Option Nat) (queue : List Request) : Ef24 :=
  (machine (playing quiet 3 step 0 plays queue)).toEf24.motorEnds

/-- Not the last step; the last with plays left, and endless; the last of the last play with the queue empty and not. -/
theorem test_meets_TicksMoveThePattern :
    State.reset.settled.coreRunning = true ∧
    (∀ x ∈ [(0, some 0, []), (1, some 1, []), (1, none, []), (1, some 0, []), (1, some 0, fullQueue)],
      let u := spent x.1 x.2.1 x.2.2
      u.coreRunning = true ∧
        u.rumble.playing = some { request := requestAt 3 0, step := x.1, ticksLeft := 0, playsLeft := x.2.1 } ∧
        (u.rumble.header 0).stepCount = 2 ∧ u.rumble.queue = x.2.2) := by
  refine ⟨?_, ?_⟩ <;> decide +kernel

/-- The motor in a state with its counts as given. -/
def motorIn (state : MotorState) (kick coast brake : Nat) : State :=
  machine { quiet with rumble := { quiet.rumble with
    motor := { state := state, strength := 0, kickLeft := kick, coastCount := coast, brakeLeft := brake } } }

/-- A count of each kind that has run out, and none; a core that does not run. -/
theorem test_meets_TicksMoveThePattern_motor :
    (∀ m ∈ [motorIn .kick 0 0 0, motorIn .coasting 0 16 0, motorIn .braking 0 0 0],
      m.coreRunning = true ∧ m.rumble.playing = none ∧ m.motorEnds.rumble.motor.state ≠ m.rumble.motor.state) ∧
    (motorIn .kick 1 0 0).motorEnds.rumble.motor.state = .kick ∧ held.coreRunning = false := by
  refine ⟨?_, ?_, ?_⟩ <;> decide +kernel

theorem test_meets_MotorEndsWhenCountsRunOut :
    ((motorIn .kick 0 0 0).coreRunning = true ∧ (motorIn .kick 0 0 0).rumble.motor.state = .kick ∧
      (motorIn .kick 0 0 0).rumble.motor.kickLeft = 0) ∧
    ((motorIn .coasting 0 16 0).rumble.motor.state = .coasting ∧ 16 ≤ (motorIn .coasting 0 16 0).rumble.motor.coastCount) ∧
    ((motorIn .braking 0 0 0).rumble.motor.state = .braking ∧ (motorIn .braking 0 0 0).rumble.motor.brakeLeft = 0 ∧
      (motorIn .braking 0 0 0).rumble.playing = none) ∧
    (({ PatternStep.empty with strength := 8 } : PatternStep).kindNamed = some .drive ∧ 0 < min 8 15) ∧
    ({ PatternStep.empty with kind := 2 } : PatternStep).kindNamed = some .brake ∧
    ({ PatternStep.empty with kind := 1 } : PatternStep).kindNamed = some .coast ∧
    (∀ state ∈ [MotorState.stopped, .kick, .driving, .coasting, .braking],
      (motorIn state 0 0 0).rumble.motor.state = state) ∧
    (let off := { quiet with rumble := { quiet.rumble with enabled := false } }
     off.rumble.enabled = false ∧ off.ceiling = 0) ∧
    (quiet.rumble.enabled = true ∧ quiet.save.guard = false ∧ quiet.ceiling = 15 ∧ (supplied quiet .low 2900).ceiling = 6) ∧
    (let raised := { quiet with save := { quiet.save with guard := true } }
     raised.save.guard = true ∧ raised.ceiling = 4) := by
  refine ⟨?_, ?_, ?_, ?_, ?_, ?_, ?_, ?_, ?_, ?_⟩ <;> decide +kernel

/-! ## The SRAM port and the sequencer -/

/-- The sequencer at a step, slot 0 VALID, with an access of it in progress. -/
def stepping (q : Sequencer) : Ef24 := { filled with save := { filled.save with sequencer := q, port := some .sequencer } }

/-- The steps that have an access to make. -/
def accessing : List Sequencer :=
  [.formatting [1] [(0, 1)], .intent true 0 validRecord [(144, 1)], .switching true 0 validRecord [(16, 1)],
    .closing true 0 [(144, 0)], .scanning 0 4 1 0xFFFF, .verifying 0 0 0xFFFF, .copying 0 511 none,
    .copying 0 511 (some 7), .copying 1 0 none]

theorem test_meets_PortAccessesComplete :
    (let u := (machine { quiet with save := { quiet.save with
       buffer := [{ address := 512, data := 7, slot := 0 }], port := some .drain } }).settled
     u.save.port = some .drain ∧ u.save.buffer = [{ address := 512, data := 7, slot := 0 }]) ∧
    (∀ q ∈ accessing, (machine (stepping q)).settled.save.port = some .sequencer ∧
      (machine (stepping q)).settled.save.sequencer = q) ∧
    ((filled.save.slot 0).record.valid = true ∧ (filled.save.slot 1).record.valid = false ∧
      filled.save.slotWords 0 = 512 ∧ (filled.save.slot 0).record.dataLength.toNat / 2 = 1) ∧
    Memory.wf [(511, 1), (512, 7)] := by
  refine ⟨?_, ?_, ?_, ?_⟩ <;> decide +kernel

/-- Each step at its end, with the core running; GUARDING with Heavy Load clear. -/
theorem test_meets_CommitStepsFollow :
    (∀ q ∈ [Sequencer.commitDraining 0 4, .seedDraining 0, .formatDraining [1], .scanning 0 4 2 0, .guarding 0 4 0,
        .intent true 0 validRecord [], .switching true 0 validRecord [], .closing true 0 [], .closing false 0 []],
      (stepping q).coreRunning = true ∧ (stepping q).save.sequencer = q) ∧
    filled.save.buffer = [] ∧ filled.rumble.heavyLoad = false := by
  refine ⟨?_, ?_⟩ <;> decide +kernel

/-- Each step with its last access in progress. -/
theorem test_meets_CommitStepsFollow_last :
    ∀ q ∈ [Sequencer.scanning 0 4 1 0, .intent true 0 validRecord [(175, 1)], .intent false 0 validRecord [(175, 1)],
        .switching true 0 validRecord [(31, 1)], .closing true 0 [(144, 0)], .closing false 0 [(144, 0)]],
      (machine (stepping q)).settled.save.port = some .sequencer ∧ (machine (stepping q)).settled.save.sequencer = q := by
  decide +kernel

/-- The row of SWITCHING's end makes its last write and ends the step (log 10). -/
theorem test_switching_done_makes_last_write :
    let u := (stepping (.switching true 0 validRecord [(31, 9)])).endStep (·.save.switchingDue) Ef24.finishSwitching
    u.sram.read 31 = 9 ∧ u.save.sequencer = .closing true 0 [(144, 0)] ∧ (u.save.slot 0).record = validRecord := by
  decide +kernel

/-- A volume record without its check word: one slot of 1 KiB an image. -/
def volumeWords : List Word := [0x5EF2, 1, 0, 1, 0, 0, 0, 0, 0, 0, 0]

/-- An intent record without its check word: the new record with its state bits and data length. -/
def intentWords (state length : Word) : List Word := [0x5EF2, 0, state, 0, length] ++ List.replicate 17 0

/-- A stage of recovery with an access of it in progress, and a check word in the SRAM. -/
def recovering (stage : RecoveryStage) (at_ : Nat) (check : Word) : Ef24 :=
  (machine { stepping (.recovering stage) with sram := filled.sram.write at_ check }).settled

/-- The 23 words of an intent record as recovery reads them, with its check word. -/
def intentRead (state length check : Word) : List Word :=
  intentWords state length ++ [(recovering (.intentRecord (intentWords state length)) 175 check).sram.read 175]

/-- The ends; each stage of recovery, with more to come and at its end, and each outcome of its judgement. -/
theorem test_meets_SeedFormatVerifyRecoveryEnd :
    (∀ q ∈ [Sequencer.copying 0 512 none, .formatting [1] [], .verifying 0 1 0, .recovering .finished],
      (stepping q).coreRunning = true ∧ (stepping q).save.sequencer = q) ∧
    (filled.save.slotWords 0 ≤ 512 ∧ (filled.save.slot 0).record.dataLength.toNat / 2 ≤ 1) ∧
    (∀ stage ∈ [RecoveryStage.volumeRecord [], .volumeRecord volumeWords, .intentRecord [],
        .intentRecord (intentWords 1 2), .intentScan 0 validRecord validRecord 0 0xFFFF, .resolving 0 true [(16, 1)],
        .resolving 0 true [(16, 1), (144, 0)], .slotRecord 0 [], .slotRecord 0 (List.replicate 10 0),
        .rewriting 0 [(16, 1)], .rewriting 0 [(16, 1), (31, 1)], .verifying 0 0 0xFFFF],
      (recovering stage 0 0).save.port = some .sequencer ∧ (recovering stage 0 0).save.sequencer = .recovering stage) ∧
    (let u := recovering (.volumeRecord volumeWords) 15 0xB038
     volumeValid (volumeWords ++ [u.sram.read 15]) u.sramCode = true ∧
       volumeValid (volumeWords ++ [u.sram.read 14]) u.sramCode = false) ∧
    intentValid (intentRead 0 2 0xA3BF) = true ∧ intentValid (intentRead 1 1 0x2C4A) = true ∧
    intentValid (intentRead 1 2 0x8515) = true ∧ intentValid (intentRead 1 2 0) = false ∧
    ((SlotRecord.ofWords ((intentWords 0 2).drop 2)).valid = false ∧
      (SlotRecord.ofWords ((intentWords 1 1).drop 2)).valid = true ∧
      (SlotRecord.ofWords ((intentWords 1 1).drop 2)).dataLength = 1 ∧
      (SlotRecord.ofWords ((intentWords 1 2).drop 2)).dataLength = 2) ∧
    (let u := recovering (.slotRecord 0 (List.replicate 10 0)) 31 0xF6B8
     crcOf (List.replicate 10 0) = u.sram.read 31 ∧ crcOf (List.replicate 10 0) ≠ u.sram.read 30) ∧
    (filled.save.slotCount ≤ 8 ∧ 0 < filled.save.slotCount ∧ (filled.save.slot 0).record.valid = true ∧
      2 ≤ (filled.save.slot 0).record.dataLength.toNat ∧ ∀ m, m < 2 → (quiet.save.slot m).record.valid = false) := by
  refine ⟨?_, ?_, ?_, ?_, ?_, ?_, ?_, ?_, ?_, ?_, ?_⟩ <;> decide +kernel

/-- Each operation with its last access in progress. -/
theorem test_meets_SeedFormatVerifyRecoveryEnd_last :
    (∀ q ∈ [Sequencer.copying 0 511 (some 7), .copying 1 1023 none, .formatting [1] [(15, 1)], .verifying 0 0 0xFFFF],
      (machine (stepping q)).settled.save.port = some .sequencer ∧ (machine (stepping q)).settled.save.sequencer = q) ∧
    (filled.save.slotWords 0 = 512 ∧ (filled.save.slot 0).record.valid = true ∧
      (filled.save.slot 0).record.dataLength.toNat / 2 = 1 ∧ filled.save.slotWords 1 = 1024 ∧
      (filled.save.slot 1).record.valid = false) := by
  refine ⟨?_, ?_⟩ <;> decide +kernel

/-- Recovery with its last access in progress, after which no VALID slot is left. -/
theorem test_meets_SeedFormatVerifyRecoveryEnd_recovered :
    ∀ stage ∈ [RecoveryStage.slotRecord 1 (List.replicate 10 0), .rewriting 1 [(47, 1)], .verifying 0 0 0xFFFF],
      let u := recovering stage 47 0xF6B8
      u.save.port = some .sequencer ∧ u.save.sequencer = .recovering stage ∧
        u.sram.read 47 = crcOf (List.replicate 10 0) := by
  decide +kernel

/-- Verification is finished where no VALID slot is left. -/
theorem test_meets_SeedFormatVerifyRecoveryEnd_finished :
    (quiet.verifyFrom 8 0).save.sequencer = .recovering .finished ∧
      (filled.verifyFrom 8 1).save.sequencer = .recovering .finished := by decide +kernel

/-- Slot 0 VALID with less than a word of data, its CRC as given. -/
def short (crc : Word) : Ef24 :=
  let record : SlotRecord := { validRecord with dataLength := 1, crc := crc }
  { quiet with save := { quiet.save with slots := quiet.save.slots.setIfInBounds 0 { Slot.reset with record := record } } }

/-- Its CRC is any word: the start value, or not. -/
theorem test_meets_SeedFormatVerifyRecoveryEnd_short (crc : Word) :
    0 < (short crc).save.slotCount ∧ ((short crc).save.slot 0).record = { validRecord with dataLength := 1, crc := crc } :=
  ⟨Nat.zero_lt_two, rfl⟩

/-! ## Crystal, supply, reset, coin cell -/

/-- The last reading; BEHIND with more than a second to go and with one; TRUE without and with Calendar Valid. -/
theorem test_meets_SecondAdvancesCalendar :
    (let u := (machine (dated quiet DateTime.last)).settled
     u.power.retained = true ∧ u.calendar.now = DateTime.last) ∧
    (∀ n ∈ [1, 2],
      let t := in2001 1 1 0 0 0
      let d := dated quiet t
      let u := (machine { d with calendar := { d.calendar with behind := true, high := t.instant + n } }).settled
      u.calendar.now ≠ DateTime.last ∧ u.calendar.behind = true ∧ (t.next.instant = u.calendar.high ↔ n = 1)) ∧
    (let u := (machine quiet).settled
     u.calendar.now ≠ DateTime.last ∧ u.calendar.behind = false ∧ u.calendar.valid = false) ∧
    (let u := (machine (dated quiet (in2001 1 1 23 59 59))).settled
     u.calendar.now ≠ DateTime.last ∧ u.calendar.behind = false ∧ u.calendar.valid = true) ∧
    ((in2001 12 31 23 59 59).exists_ = true ∧ in2001 12 31 23 59 59 ≠ DateTime.last) ∧
    (quiet.chip = some .run ∧ (entering quiet).chip = some .enteringSleep ∧ asleep.chip = some .asleep ∧
      halted.chip = some .halted ∧ held.chip = none) := by
  refine ⟨?_, ?_, ?_, ?_, ?_, ?_⟩ <;> decide +kernel

/-- A supply state, a level just across its threshold, and the transition whose hold timer then runs. -/
def crossings : List (Supply × Nat × SupplyChange) :=
  [(.absent, 2001, .absentToRising), (.rising, 1799, .risingToAbsent), (.rising, 3000, .risingToGood),
    (.good, 2999, .goodToLow), (.low, 3000, .lowToGood), (.low, 2799, .toFailing), (.failing, 1799, .failingToAbsent),
    (.failing, 3000, .failingToGood)]

/-- The supply monitor, the core running where it is powered and held in reset elsewhere. -/
def powered (s : Supply) (millivolts : Nat) : State :=
  machine (supplied { quiet with chip := if s.powers then some .run else none } s millivolts)

theorem test_meets_SupplyChangesByHold :
    (∀ x ∈ crossings, Hold.supply x.2.2 ∈ (powered x.1 x.2.1).settled.power.holds) ∧
    Hold.supply .goodToLow ∉ (powered .good 3000).settled.power.holds ∧
    (powered .low 2799).settled.chip ≠ none ∧
    (let u := (machine (supplied held .low 2799)).settled
     Hold.supply .toFailing ∈ u.power.holds ∧ u.chip = none) ∧
    (let p := supplied { quiet with chip := none } .rising 3000
     let u := (machine { p with power := { p.power with retained := false } }).settled
     Hold.supply .risingToGood ∈ u.power.holds ∧ u.power.retained = false) := by
  refine ⟨?_, ?_, ?_, ?_, ?_⟩ <;> decide +kernel

theorem test_meets_CoreResetHoldsAndEnds :
    (machine quiet).settled.coreRunning = true ∧ (machine halted).settled.chip = some .halted ∧
    ((machine held).settled.chip = none ∧ (machine held).settled.power.supply.powers = true) ∧
    (let u := (machine (supplied held .rising 2500)).settled
     u.chip = none ∧ u.power.supply.powers = false) := by
  refine ⟨?_, ?_, ?_, ?_⟩ <;> decide +kernel

/-- The coin cell at a level, with the flag as given, the supply in a state. -/
def celled (s : Supply) (millivolts : Nat) (low : Bool) : State :=
  machine { quiet with
    chip := if s.powers then some .run else none
    power := { quiet.power with supply := s, vcc := if s.powers then 3300 else 0, vbat := some millivolts, coinLow := low } }

theorem test_meets_CoinCellAndRetention :
    Hold.cellLow ∈ (celled .good 2499 false).settled.power.holds ∧
    (Hold.cellLow ∉ (celled .good 2600 true).settled.power.holds ∧
      Hold.cellGood ∈ (celled .good 2600 true).settled.power.holds) ∧
    Hold.cellLost ∈ (celled .absent 1899 true).settled.power.holds ∧
    (let u := (celled .absent 1000 true).toEf24
     (machine { u with power := { u.power with retained := false } }).settled.power.retained = false ∧ 1900 < 1901) := by
  refine ⟨?_, ?_, ?_, ?_⟩ <;> decide +kernel

/-- VBAT with no cell fitted, and VCC feeding nothing: the domain has no source. -/
def sourceless : State :=
  let u := (celled .absent 0 false).toEf24
  machine { u with power := { u.power with vbat := none } }

/-- The domain without a source, which settling then knows. -/
theorem test_meets_CoinCellAndRetention_lost :
    sourceless.power.retained = true ∧ sourceless.power.supply ≠ .good ∧ sourceless.power.supply ≠ .low ∧
      sourceless.power.vbat = none ∧ sourceless.settled.power.retained = false := by decide +kernel

/-- The prime limit passed; a step that ends, and the last of the last play. What is due on the motor happens before a command. -/
theorem test_meets_SettleAndConcludeTouchOnlyDerived_due :
    (let v := (alone { voiceIn .priming 0 with elapsed := 656 }).sound.voice 2
     v.state = .priming ∧ 656 ≤ v.elapsed) ∧
    (∀ step ∈ [0, 1], (spent step (some 0) []).coreRunning = true ∧ (spent step (some 0) []).rumble.playing =
      some { request := requestAt 3 0, step := step, ticksLeft := 0, playsLeft := some 0 }) ∧
    (motorIn .kick 0 0 0).settled.rumble.motor.state = .driving := by
  refine ⟨?_, ?_, ?_⟩ <;> decide +kernel

end Sys2Proof.Tests
end

section
/-! PROOFS. The control aperture's two queries (Chapter 3): TABLE READ (R48) and STATUS QUERY (R41). -/

namespace Sys2Proof.Machine

/-! ## TABLE READ: one lemma for each of its answers (R48) -/

/-- The images TABLE READ returns, as a list over the entries that fit. -/
theorem tableImages_eq (u : Ef24) (t : TableId) (first count : Nat) :
    u.tableImages t first count =
      (List.range (min count (31 / t.entrySize))).flatMap (fun k => u.entryImage t (first + k)) := rfl

/-- An id that names no table is refused, whatever the count. -/
theorem tableRead_noTable {u : Ef24} (hid : tableOfId (u.arg 0) = none) : u.tableRead = u.respond .badArg [] := by
  simp [Ef24.tableRead, hid]

/-- A count of 0 is refused, whether or not the id names a table. -/
theorem tableRead_countZero {u : Ef24} (hcount : u.arg 2 = 0) : u.tableRead = u.respond .badArg [] := by
  cases hid : tableOfId (u.arg 0) with
  | none => exact tableRead_noTable hid
  | some t => simp [Ef24.tableRead, hid, hcount]

/-- A run of entries that ends past the table is refused. -/
theorem tableRead_pastEnd {u : Ef24} {t : TableId} (hid : tableOfId (u.arg 0) = some t) (hcount : u.arg 2 ≠ 0)
    (hend : t.entries < u.arg 1 + u.arg 2) : u.tableRead = u.respond .outOfRange [] := by
  simp [Ef24.tableRead, hid, hcount, hend]

/-- A run of entries inside the table is answered with its images. -/
theorem tableRead_inside {u : Ef24} {t : TableId} (hid : tableOfId (u.arg 0) = some t) (hcount : u.arg 2 ≠ 0)
    (hend : u.arg 1 + u.arg 2 ≤ t.entries) :
    u.tableRead = u.respond .ok (u.tableImages t (u.arg 1) (u.arg 2)) := by
  simp [Ef24.tableRead, hid, hcount, Nat.not_lt.mpr hend]

/-- Settles O23: a frame that passes the checks of R34 is answered as `Ef24.tableRead` answers it, refusals first. -/
theorem tableReadAnswersImages : Obligations.TableReadAnswersImages := by
  intro s u hpasses
  have hexec : exec .tableRead s = s.answering u.tableRead :=
    (exec_tableRead s).trans (runFrame_passes _ hpasses)
  rw [hexec]
  refine ⟨?refused, fun t hid hcount => ⟨fun hend => ?pastEnd, fun hend => ?inside⟩⟩
  case refused =>
    rintro (hid | hcount)
    · rw [tableRead_noTable hid]
    · rw [tableRead_countZero hcount]
  case pastEnd => rw [tableRead_pastEnd hid hcount hend]
  case inside => rw [tableRead_inside hid hcount hend, tableImages_eq]

/-! ## STATUS QUERY: its second, third and fourth words (R41) -/

/-- The strap codes stand in bits 5:4 and 1:0 of the strap word; neither is wider than its field. -/
theorem strapWord_eq (u : Ef24) : u.strapWord = BitVec.ofNat 16 (16 * u.sramCode.toNat + u.romCode.toNat) := by
  unfold Ef24.strapWord word
  rw [put_toNat, put_toNat, pow_zero, mul_one, mul_comm]
  rfl

/-- An IDLE Loader has received and needs nothing. -/
theorem loadWords_idle {u : Ef24} (h : u.loader = none) : u.loadWords = (0, 0) := by
  simp [Ef24.loadWords, h]

/-- A load has received what is staged, and needs every word of its entries. -/
theorem loadWords_load {u : Ef24} {l : Load} (h : u.loader = some l) :
    u.loadWords = (l.staged.length, l.count * l.table.entrySize) := by
  simp [Ef24.loadWords, h, Load.needed]

/-- Settles O22: by whether a load is in progress, which gives the last two words. -/
theorem statusQueryAnswersFourWords : Obligations.StatusQueryAnswersFourWords := by
  intro s u hpasses
  have hexec : exec .statusQuery s = s.answering u.statusQuery :=
    (exec_statusQuery s).trans (runFrame_passes _ hpasses)
  rw [hexec, Ef24.statusQuery, strapWord_eq]
  cases hloader : u.loader with
  | none => rw [loadWords_idle hloader]; rfl
  | some l => rw [loadWords_load hloader]; rfl

end Sys2Proof.Machine
end

section
/-! PROOFS. The Rumble Drive's query (Chapter 6): RUMBLE STATUS (R103). -/

namespace Sys2Proof.Machine

/-! ## RUMBLE STATUS: its words, field by field (R103, section 13.5) -/

/-- A field that begins at bit 0 is its value, cut to the field's width. -/
theorem put_bottom (value width : Nat) : Field.put value 0 width = value % 2 ^ width := by
  rw [Field.put, pow_zero, mul_one]

/-- The motor states fit their field of three bits. -/
theorem MotorState.code_lt (m : MotorState) : m.code < 8 := by cases m <;> decide

/-- The sources fit their field of two bits. -/
theorem RumbleSource.code_lt (r : RumbleSource) : r.code < 4 := by cases r <;> decide

/-- Word 1: the ceiling, the strength, the motor state. -/
theorem motorWord_eq (u : Ef24) :
    Field.put u.ceiling 8 4 + Field.put u.rumble.motor.strength 4 4 + Field.put u.rumble.motor.state.code 0 3 =
      u.ceiling % 16 * 256 + u.rumble.motor.strength % 16 * 16 + u.rumble.motor.state.code := by
  rw [put_of_fits _ 0 3 u.rumble.motor.state.code_lt, pow_zero, mul_one]
  rfl

/-- Word 2: the limits; Heavy Load is the strength at the threshold or above (R98). -/
theorem limitsWord_eq (u : Ef24) :
    Field.put u.rumble.heavyThreshold 8 4 + Field.put u.rumble.guardStrength 4 4 + Field.mark u.rumble.heavyLoad 2 +
        Field.mark u.save.guard 1 + Field.mark u.rumble.enabled 0 =
      u.rumble.heavyThreshold % 16 * 256 + u.rumble.guardStrength % 16 * 16 +
        (if u.rumble.heavyThreshold ≤ u.rumble.motor.strength then 4 else 0) + (if u.save.guard then 2 else 0) +
        (if u.rumble.enabled then 1 else 0) := by
  simp only [Field.mark, Rumble.heavyLoad, decide_eq_true_eq]
  rfl

/-- Words 3 and 4 of a playing request. -/
theorem playingWords_some (p : Playing) :
    Playing.words (some p) =
      [ word (p.request.pattern % 32 * 256 + p.request.priority % 8 * 16 + p.request.source.code * 4 + 1),
        word (p.playsLeft.getD 15 % 16 * 4096 + p.step % 64 * 16 + p.request.voice.getD 7 % 8) ] := by
  rw [Playing.words, put_of_fits _ 2 2 p.request.source.code_lt, put_bottom]
  rfl

/-- The word of a queue place that holds a request. -/
theorem queueWord_some (q : Request) : queueWord (some q) = word (q.pattern % 32 * 256 + q.priority % 8) := by
  rw [queueWord, put_bottom]
  rfl

/-- Settles O34: field by field of each word, and by whether a request plays, which gives the third and fourth. -/
theorem rumbleStatusReportsDrive : Obligations.RumbleStatusReportsDrive := by
  refine ⟨?answers, rfl, rfl⟩
  intro s u r place hpasses
  have hplace : queueWord = place := by
    funext q
    cases q with
    | none => rfl
    | some q => exact queueWord_some q
  have hexec : exec .rumbleStatus s = s.answering (u.respond .ok u.rumbleWords) :=
    (exec_rumbleStatus s).trans (runFrame_passes _ hpasses)
  rw [hexec, Ef24.rumbleWords, motorWord_eq, limitsWord_eq, hplace]
  -- the words are compared for any chip, so that no step of settling is unfolded
  clear_value u
  cases u.rumble.playing with
  | none => rfl
  | some p => rw [playingWords_some]; rfl

end Sys2Proof.Machine
end

section
/-! PROOFS. The save slots' query (Chapter 7): SLOT INFO (R122). -/

namespace Sys2Proof.Machine

/-! ## SLOT INFO: its refusals and its eleven words (R122, section 13.5) -/

/-- Word 0: the marks above the two bits a slot record holds. -/
theorem slotMarksWord_eq (x : Slot) :
    word (Field.mark x.bad 3 + Field.mark x.tainted 2 + x.record.stateBits) =
      BitVec.ofNat 16 ((if x.bad then 8 else 0) + (if x.tainted then 4 else 0) +
        (if x.record.live = .b then 2 else 0) + (if x.record.valid then 1 else 0)) := by
  unfold SlotRecord.stateBits word
  cases x.bad <;> cases x.tainted <;> cases x.record.valid <;> cases x.record.live <;> rfl

/-- After word 0, SLOT INFO gives the other words of the slot's record, in their order, then the image size. -/
theorem slotWords_ofRecord (u : Ef24) (k : Nat) :
    u.slotWords k =
      word (Field.mark (u.save.slot k).bad 3 + Field.mark (u.save.slot k).tainted 2 +
          (u.save.slot k).record.stateBits) ::
        ((u.save.slot k).record.words.tail ++ [word (u.save.sizes.getD k 0)]) := rfl

/-- The eleven words, item by item (section 13.5): the marks, the slot record's items (section 13.6), the size. -/
theorem slotWords_eq (u : Ef24) (k : Nat) :
    let x := u.save.slot k
    u.slotWords k =
      [ BitVec.ofNat 16 ((if x.bad then 8 else 0) + (if x.tainted then 4 else 0) +
          (if x.record.live = .b then 2 else 0) + (if x.record.valid then 1 else 0)),
        x.record.generation, x.record.dataLength, x.record.crc,
        BitVec.ofNat 16 (x.record.gameDay.toNat / 65536), BitVec.ofNat 16 x.record.gameDay.toNat,
        BitVec.ofNat 16 (x.record.playSeconds.toNat / 65536), BitVec.ofNat 16 x.record.playSeconds.toNat,
        (match x.record.instant with | some t => BitVec.ofNat 16 (t.toNat / 65536) | none => 0xFFFF),
        (match x.record.instant with | some t => BitVec.ofNat 16 t.toNat | none => 0xFFFF),
        BitVec.ofNat 16 (u.save.sizes.getD k 0) ] := by
  intro x
  rw [slotWords_ofRecord, slotMarksWord_eq, slotRecord_words]
  rfl

/-- A slot at or above the limit is refused, whatever the volume state. -/
theorem slotInfo_pastLimit {u : Ef24} (hlimit : u.save.slotLimit ≤ u.arg 0) :
    u.slotInfo = u.respond .outOfRange [] := if_pos hlimit

/-- A slot below the limit is refused while the volume is not READY. -/
theorem slotInfo_notReady {u : Ef24} (hlimit : ¬ u.save.slotLimit ≤ u.arg 0) (hvolume : u.save.volume ≠ .ready) :
    u.slotInfo = u.respond .notReady [] := (if_neg hlimit).trans (if_pos hvolume)

/-- A slot of a READY volume is answered with its words. -/
theorem slotInfo_ready {u : Ef24} (hlimit : ¬ u.save.slotLimit ≤ u.arg 0) (hvolume : ¬ u.save.volume ≠ .ready) :
    u.slotInfo = u.respond .ok (u.slotWords (u.arg 0)) := (if_neg hlimit).trans (if_neg hvolume)

/-- Settles O38: the two refusals in their order, then the words, whose middle nine are the slot record's own. -/
theorem slotInfoReportsCopy : Obligations.SlotInfoReportsCopy := by
  intro s u k x limit hpasses
  have hexec : exec .slotInfo s = s.answering u.slotInfo :=
    (exec_slotInfo s).trans (runFrame_passes _ hpasses)
  rw [hexec]
  -- the answers are compared for any chip, so that no step of settling is unfolded
  clear_value u
  by_cases hlimit : limit ≤ k
  case pos => rw [if_pos hlimit, slotInfo_pastLimit hlimit]
  case neg =>
    rw [if_neg hlimit]
    by_cases hvolume : u.save.volume ≠ .ready
    case pos => rw [if_pos hvolume, slotInfo_notReady hlimit hvolume]
    case neg =>
      rw [if_neg hvolume, slotInfo_ready hlimit hvolume]
      exact congrArg (fun words => s.answering (u.respond .ok words)) (slotWords_eq u k)

end Sys2Proof.Machine
end

section
/-! PROOFS. The calendar's readings and settings (Chapter 9): CLOCK READ, GAME DAY READ (R151), DAY START SET (R145), ADVANCE
CAP SET (R150). -/

namespace Sys2Proof.Machine

/-! ## The readings, word by word (R151, section 13.5) -/

/-- The weekdays, 0 to 6, fit their field of three bits. -/
theorem DateTime.weekday_lt (t : DateTime) : t.weekday < 2 ^ 3 := by
  have hweek : t.weekday < 7 := Nat.mod_lt _ (by decide)
  omega

/-- Word 3 of CLOCK READ: the second, the weekday, Calendar Valid, the clock state. -/
theorem clockMarksWord_eq (c : Calendar) :
    Field.put c.now.second 8 8 + Field.put c.now.weekday 4 3 + Field.mark c.valid 1 + Field.mark c.behind 0 =
      c.now.second % 256 * 256 + c.now.weekday * 16 + (if c.valid then 2 else 0) + (if c.behind then 1 else 0) := by
  rw [put_of_fits _ 4 3 c.now.weekday_lt]
  rfl

/-- The four words of CLOCK READ: the year; month and date; hour and minute; the second with the marks. -/
theorem clockWords_eq (c : Calendar) :
    c.clockWords =
      [ BitVec.ofNat 16 c.now.year, BitVec.ofNat 16 (c.now.month % 256 * 256 + c.now.date % 256),
        BitVec.ofNat 16 (c.now.hour % 256 * 256 + c.now.minute % 256),
        BitVec.ofNat 16 (c.now.second % 256 * 256 + c.now.weekday * 16 + (if c.valid then 2 else 0) +
          (if c.behind then 1 else 0)) ] := by
  rw [Calendar.clockWords, clockMarksWord_eq, put_bottom, put_bottom]
  rfl

/-- The three words of GAME DAY READ: the counter, high word first; the Day Start hour and the Advance Cap. -/
theorem gameDayWords_eq (c : Calendar) :
    c.gameDayWords =
      [ BitVec.ofNat 16 (c.gameDay / 65536), BitVec.ofNat 16 c.gameDay,
        BitVec.ofNat 16 (c.dayStart % 32 * 256 + c.advanceCap % 256) ] := by
  rw [Calendar.gameDayWords, put_bottom]
  rfl

/-! ## The settings: one lemma for each answer (R145, R150) -/

/-- An hour of the day becomes the Day Start hour. -/
theorem dayStartSet_hour {u : Ef24} (hhour : u.arg 0 ≤ 23) :
    u.dayStartSet = { u with calendar := { u.calendar with dayStart := u.arg 0 } }.respond .ok [] :=
  if_neg (Nat.not_lt.mpr hhour)

/-- A number that is no hour of the day is refused. -/
theorem dayStartSet_noHour {u : Ef24} (hhour : ¬ u.arg 0 ≤ 23) : u.dayStartSet = u.respond .badArg [] :=
  if_pos (Nat.not_le.mp hhour)

/-- A cap of 1 to 255 becomes the Advance Cap. -/
theorem advanceCapSet_inRange {u : Ef24} (hcap : 1 ≤ u.arg 0 ∧ u.arg 0 ≤ 255) :
    u.advanceCapSet = { u with calendar := { u.calendar with advanceCap := u.arg 0 } }.respond .ok [] :=
  if_neg (by omega)

/-- A cap of 0, or above 255, is refused. -/
theorem advanceCapSet_outOfRange {u : Ef24} (hcap : ¬ (1 ≤ u.arg 0 ∧ u.arg 0 ≤ 255)) :
    u.advanceCapSet = u.respond .badArg [] :=
  if_pos (by omega)

/-- Settles O42: each frame that passes the checks of R34 is answered as its command's body answers it; the readings go
word by word, the settings by whether the argument is in range. -/
theorem calendarReportsAndSettings : Obligations.CalendarReportsAndSettings := by
  intro s u c
  refine ⟨fun hpasses => ?clockRead, fun hpasses => ?gameDayRead, fun hpasses => ?dayStartSet,
    fun hpasses => ?advanceCapSet⟩
  case clockRead =>
    have hexec : exec .clockRead s = s.answering (u.respond .ok c.clockWords) :=
      (exec_clockRead s).trans (runFrame_passes _ hpasses)
    rw [hexec, clockWords_eq]
  case gameDayRead =>
    have hexec : exec .gameDayRead s = s.answering (u.respond .ok c.gameDayWords) :=
      (exec_gameDayRead s).trans (runFrame_passes _ hpasses)
    rw [hexec, gameDayWords_eq]
  case dayStartSet =>
    have hexec : exec .dayStartSet s = s.answering u.dayStartSet :=
      (exec_dayStartSet s).trans (runFrame_passes _ hpasses)
    rw [hexec]
    by_cases hhour : u.arg 0 ≤ 23
    case pos => rw [if_pos hhour, dayStartSet_hour hhour]
    case neg => rw [if_neg hhour, dayStartSet_noHour hhour]
  case advanceCapSet =>
    have hexec : exec .advanceCapSet s = s.answering u.advanceCapSet :=
      (exec_advanceCapSet s).trans (runFrame_passes _ hpasses)
    rw [hexec]
    by_cases hcap : 1 ≤ u.arg 0 ∧ u.arg 0 ≤ 255
    case pos => rw [if_pos hcap, advanceCapSet_inRange hcap]
    case neg => rw [if_neg hcap, advanceCapSet_outOfRange hcap]

end Sys2Proof.Machine
end

section
/-! PROOFS. The Power Monitor's query (Chapter 12): SUPPLY READ (R183). -/

namespace Sys2Proof.Machine

/-! ## SUPPLY READ: its one word, field by field (R183, section 13.5) -/

/-- The supply states fit their field of three bits. -/
theorem Supply.code_lt (x : Supply) : x.code < 2 ^ 3 := by cases x <;> decide

/-- The result word: the coin-cell low flag in bit 5, Heavy Load in bit 4, the supply state below them. -/
theorem supplyWord_eq (p : Power) :
    p.supplyWord =
      BitVec.ofNat 16 ((if p.coinLow then 32 else 0) + (if p.heavyLoad then 16 else 0) + p.supply.code) := by
  rw [Power.supplyWord, put_of_fits _ 0 3 p.supply.code_lt, pow_zero, mul_one]
  rfl

/-- Settles O47: a frame that passes the checks of R34 is answered with the supply word, whose three fields stand in their
bits; the codes are those of section 13.5. -/
theorem supplyReadReports : Obligations.SupplyReadReports := by
  refine ⟨?answers, ?codes⟩
  case answers =>
    intro s u hpasses
    have hexec : exec .supplyRead s = s.answering u.supplyRead :=
      (exec_supplyRead s).trans (runFrame_passes _ hpasses)
    rw [hexec, Ef24.supplyRead, supplyWord_eq]
  case codes => rfl

end Sys2Proof.Machine
end

section
/-! PROOFS. What every step keeps: the frame of a command's body, and the SRAM's canonical form (log 3). -/

namespace Sys2Proof.Machine

/-! ## What no command's body touches -/

/-- The fields that the body of a command's frame leaves: the memories, the console's pins, the tables a load fills but for
the schedule, the Power Monitor, and of the Save Controller the volume's sizes, the buffer and the port. -/
theorem frameBody_eq (c : Command) (u : Ef24) :
    frameBody c u = { u with
      command := (frameBody c u).command
      loader := (frameBody c u).loader
      romPort := (frameBody c u).romPort
      sound := (frameBody c u).sound
      rumble := (frameBody c u).rumble
      events := (frameBody c u).events
      calendar := (frameBody c u).calendar
      schedule := (frameBody c u).schedule
      chip := (frameBody c u).chip
      free := (frameBody c u).free
      save := { u.save with
        slots := (frameBody c u).save.slots
        volume := (frameBody c u).save.volume
        guard := (frameBody c u).save.guard
        sequencer := (frameBody c u).save.sequencer
        flags := (frameBody c u).save.flags } } := by
  cases c with
  | statusQuery => exact statusQuery_eq u
  | tableRead => dsimp only [frameBody]; rw [tableRead_eq]
  | loadTable => dsimp only [frameBody]; rw [loadTable_eq]
  | loadAbort => dsimp only [frameBody]; rw [loadAbort_eq]
  | actionRun => dsimp only [frameBody]; rw [actionRun_eq]
  | cuePlay => dsimp only [frameBody]; rw [cuePlay_eq]
  | voiceStop => dsimp only [frameBody]; rw [voiceStop_eq]
  | soundStopAll => dsimp only [frameBody]; rw [soundStopAll_eq]
  | soundVolume => dsimp only [frameBody]; rw [soundVolume_eq]
  | voiceStatus => rfl
  | rumbleStart => dsimp only [frameBody]; rw [rumbleStart_eq]
  | rumbleCut => dsimp only [frameBody]; rw [rumbleCut_eq]
  | rumbleEnable => dsimp only [frameBody]; rw [rumbleEnable_eq]
  | rumbleLimits => dsimp only [frameBody]; rw [rumbleLimits_eq]
  | rumbleStatus => rfl
  | saveFormat => dsimp only [frameBody]; rw [saveFormat_eq]
  | slotSeed => dsimp only [frameBody]; rw [slotSeed_eq]
  | slotCommit => dsimp only [frameBody]; rw [slotCommit_eq]
  | slotDiscard => dsimp only [frameBody]; rw [slotDiscard_eq]
  | slotVerify => dsimp only [frameBody]; rw [slotVerify_eq]
  | slotInfo => dsimp only [frameBody]; rw [slotInfo_eq]
  | flagTest => dsimp only [frameBody]; rw [singleFlag_eq]
  | flagSet => dsimp only [frameBody]; rw [singleFlag_eq]
  | flagClear => dsimp only [frameBody]; rw [singleFlag_eq]
  | flagToggle => dsimp only [frameBody]; rw [singleFlag_eq]
  | flagScan => dsimp only [frameBody]; rw [flagScan_eq]
  | flagClearRange => dsimp only [frameBody]; rw [flagClearRange_eq]
  | clockSet => dsimp only [frameBody]; rw [clockSet_eq]
  | clockRead => rfl
  | dayStartSet => dsimp only [frameBody]; rw [dayStartSet_eq]
  | gameDayRead => rfl
  | advanceCapSet => dsimp only [frameBody]; rw [advanceCapSet_eq]
  | timerRun => rfl
  | timerStop => rfl
  | timerClear => rfl
  | timerRead => rfl
  | eventTake => dsimp only [frameBody]; rw [eventTake_eq]
  | eventMaskSet => dsimp only [frameBody]; rw [eventMaskSet_eq]
  | sleep => dsimp only [frameBody]; rw [sleep_eq]
  | wake => dsimp only [frameBody]; rw [wake_eq]
  | supplyRead => rfl

@[simp] theorem frameBody_sram (c : Command) (u : Ef24) : (frameBody c u).sram = u.sram := by rw [frameBody_eq]
@[simp] theorem frameBody_power (c : Command) (u : Ef24) : (frameBody c u).power = u.power := by rw [frameBody_eq]
@[simp] theorem frameBody_crstLow (c : Command) (u : Ef24) : (frameBody c u).crstLow = u.crstLow := by rw [frameBody_eq]
@[simp] theorem frameBody_buffer (c : Command) (u : Ef24) : (frameBody c u).save.buffer = u.save.buffer := by
  rw [frameBody_eq]

end Sys2Proof.Machine
end

section
/-! PROOFS. Every step keeps the SRAM canonical (log 3): only writes of words reach it. -/

namespace Sys2Proof.Machine

/-! ## The Save Controller's accesses write words -/

/-- A chip whose SRAM is that of another is canonical with it. -/
theorem sramCanonical_of_eq {u v : Ef24} (hsram : v.sram = u.sram) (hu : u.sramCanonical) : v.sramCanonical := by
  unfold Ef24.sramCanonical at *
  rw [hsram]
  exact hu

/-- A chip whose SRAM is another's with one word written is canonical with it. -/
theorem sramCanonical_of_write {u v : Ef24} {a : Nat} {w : Word} (hsram : v.sram = u.sram.write a w)
    (hu : u.sramCanonical) : v.sramCanonical := by
  unfold Ef24.sramCanonical at *
  rw [hsram]
  exact Memory.write_wf hu a w

theorem drainOne_canonical {u : Ef24} (hu : u.sramCanonical) : u.drainOne.sramCanonical := by
  unfold Ef24.drainOne
  split
  · exact hu
  · exact sramCanonical_of_write rfl hu

theorem flagAccess_canonical {u : Ef24} (hu : u.sramCanonical) : u.flagAccess.sramCanonical := by
  unfold Ef24.flagAccess
  split
  · exact hu
  · dsimp only
    split
    · split <;> exact sramCanonical_of_write rfl hu
    · exact sramCanonical_of_write rfl hu

theorem writeNext_canonical {u : Ef24} (writes : List (Nat × Word)) (q : List (Nat × Word) → Sequencer)
    (hu : u.sramCanonical) : (u.writeNext writes q).sramCanonical := by
  unfold Ef24.writeNext
  split
  · exact hu
  · exact sramCanonical_of_write rfl hu

theorem copyNext_canonical {u : Ef24} (k index : Nat) (held : Option Word) (hu : u.sramCanonical) :
    (u.copyNext k index held).sramCanonical := by
  unfold Ef24.copyNext
  split
  · split
    · exact hu
    · exact sramCanonical_of_write rfl hu
  · exact sramCanonical_of_write rfl hu

theorem recoveryAccess_canonical {u : Ef24} (stage : RecoveryStage) (hu : u.sramCanonical) :
    (u.recoveryAccess stage).sramCanonical := by
  cases stage with
  | volumeRecord got =>
    refine sramCanonical_of_eq ?_ hu
    unfold Ef24.recoveryAccess
    dsimp only
    split
    · rfl
    · rw [judgeVolume_eq]
  | intentRecord got =>
    refine sramCanonical_of_eq ?_ hu
    unfold Ef24.recoveryAccess
    dsimp only
    split
    · rfl
    · rw [readIntent_eq]
  | intentScan slot new prior index crc =>
    refine sramCanonical_of_eq ?_ hu
    unfold Ef24.recoveryAccess
    dsimp only
    rw [judgeIntent_eq]
  | resolving slot forward writes =>
    cases writes with
    | nil => exact hu
    | cons x rest =>
      refine sramCanonical_of_write (a := x.1) (w := x.2) ?_ hu
      unfold Ef24.recoveryAccess
      dsimp only
      split <;> rfl
  | slotRecord k got =>
    refine sramCanonical_of_eq ?_ hu
    unfold Ef24.recoveryAccess
    dsimp only
    split
    · rfl
    · rw [judgeRecord_eq]
  | rewriting k writes =>
    cases writes with
    | nil => exact hu
    | cons x rest =>
      refine sramCanonical_of_write (a := x.1) (w := x.2) ?_ hu
      unfold Ef24.recoveryAccess
      dsimp only
      split
      · rw [afterRecord_eq]; rfl
      · rfl
  | verifying k index crc =>
    refine sramCanonical_of_eq ?_ hu
    unfold Ef24.recoveryAccess
    dsimp only
    split
    · rfl
    · rw [verifyFrom_eq, judgeLive_eq]
  | finished => exact hu

theorem sequencerStep_canonical {u : Ef24} (hu : u.sramCanonical) : u.sequencerStep.sramCanonical := by
  unfold Ef24.sequencerStep
  cases u.save.sequencer with
  | formatting sizes writes => exact writeNext_canonical _ _ hu
  | copying k index held => exact copyNext_canonical _ _ _ hu
  | intent commit k r writes => exact writeNext_canonical _ _ hu
  | switching commit k r writes => exact writeNext_canonical _ _ hu
  | closing commit k writes => exact writeNext_canonical _ _ hu
  | recovering stage => exact recoveryAccess_canonical _ hu
  | _ => exact hu

theorem sequencerAccess_canonical {u : Ef24} (hu : u.sramCanonical) : u.sequencerAccess.sramCanonical := by
  unfold Ef24.sequencerAccess
  split
  · exact sequencerStep_canonical hu
  · exact hu

/-! ## The supply and the reset -/

theorem loseRetention_canonical {u : Ef24} (hu : u.sramCanonical) : u.loseRetention.sramCanonical :=
  Memory.writeAll_wf hu u.lostWords

theorem drainAll_canonical {u : Ef24} (hu : u.sramCanonical) : u.drainAll.sramCanonical :=
  Memory.writeAll_wf hu _

theorem halt_sram (u : Ef24) : u.halt.sram = u.sram := by rw [halt_eq]

theorem endReset_sram (u : Ef24) : u.endReset.sram = u.sram := by rw [endReset_eq]

theorem reachGood_sram (u : Ef24) : u.reachGood.sram = u.sram := by
  unfold Ef24.reachGood
  dsimp only
  split <;> split <;> simp only [endReset_sram, holdCore_sram, backupReset_sram, setSupply_sram]

theorem changeSupply_sram (u : Ef24) (c : SupplyChange) : (u.changeSupply c).sram = u.sram := by
  cases c with
  | absentToRising => rfl
  | risingToAbsent => rfl
  | risingToGood => exact reachGood_sram u
  | goodToLow => exact noteSupply_sram _
  | lowToGood => exact noteSupply_sram _
  | toFailing => exact halt_sram _
  | failingToAbsent => rfl
  | failingToGood => exact reachGood_sram u

theorem assertReset_sram (u : Ef24) : u.assertReset.sram = u.sram := by
  unfold Ef24.assertReset
  dsimp only
  split <;> rfl

theorem releaseReset_canonical {u : Ef24} (hu : u.sramCanonical) : u.releaseReset.sramCanonical := by
  unfold Ef24.releaseReset
  dsimp only
  split
  · exact sramCanonical_of_eq (endReset_sram _) (drainAll_canonical (u := { u with crstLow := false }) hu)
  · exact hu

/-! ## The invariant -/

/-- Everything a command can do keeps the SRAM canonical. -/
theorem sramCanonical_kept : Kept Ef24.sramCanonical (fun _ => True) where
  conclude v hv := sramCanonical_of_eq (conclude_sram v) hv
  concluded _ _ := trivial
  motor _ _ _ _ hv := hv
  finish v _ hv := sramCanonical_of_eq (withRumble_sram v _) hv
  onVoice v f i _ hv := sramCanonical_of_eq (by rw [onVoice_eq]) hv
  save _ _ _ _ hv := hv
  post _ _ _ _ hv := hv
  asleep _ _ hv := hv
  lose _ hv := loseRetention_canonical hv
  respond _ _ _ hv := hv
  frame c u _ hv := sramCanonical_of_eq (frameBody_sram c u) hv
  consoleRead u addr hv := sramCanonical_of_eq (by rw [consoleRead_eq]) hv
  consoleWrite u addr value hv := sramCanonical_of_eq (by rw [consoleWrite_eq]) hv
  fetchWord u _ hv := sramCanonical_of_eq (by rw [fetchWord_eq]) hv
  fetchComplete u _ hv := sramCanonical_of_eq (by rw [fetchComplete_eq]) hv
  checkLoad u _ hv := sramCanonical_of_eq (by rw [checkLoad_eq]) hv
  outputSample u _ hv := sramCanonical_of_eq (by rw [outputSample_eq]) hv
  tick _ _ hv := hv
  drainOne _ hv := drainOne_canonical hv
  flagAccess _ hv := flagAccess_canonical hv
  sequencerAccess _ hv := sequencerAccess_canonical hv
  crystalSecond u hv := sramCanonical_of_eq (by rw [crystalSecond_eq]) hv
  hundredth u hv := sramCanonical_of_eq (by rw [hundredth_eq]) hv
  setVcc _ _ hv := hv
  changeSupply u c _ hv := sramCanonical_of_eq (changeSupply_sram u c) hv
  assertReset u hv := sramCanonical_of_eq (assertReset_sram u) hv
  releaseReset _ hv := releaseReset_canonical hv
  setCell u level hv := sramCanonical_of_eq (by rw [setCell_eq]) hv
  changeCoinLow u hv := sramCanonical_of_eq (by rw [changeCoinLow_eq]) hv

/-- Settles O5: every write goes through `Memory.write`, which keeps the canonical form. -/
theorem stepKeepsSramCanonical : Obligations.StepKeepsSramCanonical :=
  fun _ _ hs hstep => (sramCanonical_kept.step ⟨hs, trivial⟩ hstep).1

end Sys2Proof.Machine
end

section
/-! PROOFS. What the blocks hand to each other: a property that posts, rumble requests and flag operations keep is kept by
sounds, dispatches, firings, the calendar and the frames that are made of them. -/

namespace Sys2Proof.Machine

/-- The core runs as the chip state says. -/
theorem coreRunning_of_chip {u v : Ef24} (hchip : v.chip = u.chip) : v.coreRunning = u.coreRunning := by
  unfold Ef24.coreRunning
  rw [hchip]

/-! ## What the Drive's operations do to the limits and the queue (R91, R102) -/

/-- From one Rumble Drive to another: the limits stay, and a queue within its places stays within them. -/
structure Rumble.Moves (r x : Rumble) : Prop where
  guardStrength : x.guardStrength = r.guardStrength
  heavyThreshold : x.heavyThreshold = r.heavyThreshold
  queue : r.queue.length ≤ 4 → x.queue.length ≤ 4

namespace Rumble

/-- The limits and the queue are all that `Moves` looks at. -/
theorem Moves.of_eq {r x : Rumble} (hguard : x.guardStrength = r.guardStrength)
    (hheavy : x.heavyThreshold = r.heavyThreshold) (hqueue : x.queue = r.queue) : r.Moves x where
  guardStrength := hguard
  heavyThreshold := hheavy
  queue := by rw [hqueue]; exact id

theorem Moves.refl (r : Rumble) : r.Moves r := .of_eq rfl rfl rfl

theorem advanceQueue_moves (r : Rumble) (ceiling : Nat) : r.Moves (r.advanceQueue ceiling) := by
  unfold Rumble.advanceQueue
  split
  case h_1 q rest hqueue =>
    refine ⟨rfl, rfl, fun hfits => ?_⟩
    rw [hqueue, List.length_cons] at hfits
    exact Nat.le_of_succ_le hfits
  case h_2 => exact .of_eq rfl rfl rfl

theorem finish_moves (r : Rumble) (ceiling : Nat) : r.Moves (r.finish ceiling).1 := by
  unfold Rumble.finish
  split
  · obtain ⟨hguard, hheavy, hqueue⟩ := advanceQueue_moves { r with motor := r.motor.leaveBrakeStep } ceiling
    exact ⟨hguard, hheavy, hqueue⟩
  · exact .refl r

theorem removeAll_moves (r : Rumble) (cause : CutCause) : r.Moves (r.removeAll cause).1 := by
  unfold Rumble.removeAll
  split <;> exact ⟨rfl, rfl, fun _ => Nat.zero_le 4⟩

theorem voiceStopped_moves (r : Rumble) (voice ceiling : Nat) : r.Moves (r.voiceStopped voice ceiling).1 := by
  have hfilter : r.Moves { r with queue := r.queue.filter (fun x => x.voice ≠ some voice) } :=
    ⟨rfl, rfl, fun hfits => (List.length_filter_le _ _).trans hfits⟩
  unfold Rumble.voiceStopped
  split
  · split
    · exact advanceQueue_moves r ceiling
    · exact hfilter
  · exact hfilter

theorem joinQueue_length (q : Request) (queue : List Request) : (joinQueue q queue).length = queue.length + 1 := by
  induction queue with
  | nil => rfl
  | cons x xs ih =>
    unfold joinQueue
    split
    · rw [List.length_cons, ih, List.length_cons]
    · rfl

/-- A displaced request was queued. -/
theorem displacedOf_mem {queue : List Request} {d : Request} (hd : displacedOf queue = some d) : d ∈ queue := by
  unfold displacedOf at hd
  by_cases hnil : queue.filter (fun x => x.priority = lowestPriority queue) = []
  · rw [hnil] at hd
    cases hd
  · obtain ⟨e, he, hmem, -⟩ := laterArrival_fold _ none (.inl hnil)
    rw [he] at hd
    cases hd
    obtain hmem | hnone := hmem
    · exact List.mem_of_mem_filter hmem
    · cases hnone

theorem submit_moves (r : Rumble) (q : Request) (ceiling : Nat) : r.Moves (r.submit q ceiling).1 := by
  unfold Rumble.submit
  dsimp only
  split
  · exact .refl r
  split
  · exact .refl r
  split
  · exact .of_eq rfl rfl rfl
  split
  · exact .of_eq rfl rfl rfl
  split
  case isTrue hroom =>
    refine ⟨rfl, rfl, fun _ => ?_⟩
    change (joinQueue q r.queue).length ≤ 4
    rw [joinQueue_length]
    exact hroom
  split
  · split
    case h_1 d hd =>
      refine ⟨rfl, rfl, fun hfits => ?_⟩
      change (joinQueue q (r.queue.erase d)).length ≤ 4
      have hpos := List.length_pos_of_mem (displacedOf_mem hd)
      rw [joinQueue_length, List.length_erase_of_mem (displacedOf_mem hd)]
      omega
    case h_2 => exact .refl r
  · exact .refl r

end Rumble

/-! ## The blocks' shared operations -/

/-- Two chips with the same events, rumble drive, Save Controller, chip state and supply. -/
structure Ef24.Agrees (u v : Ef24) : Prop where
  events : v.events = u.events
  rumble : v.rumble = u.rumble
  save : v.save = u.save
  chip : v.chip = u.chip
  power : v.power = u.power

/-- A property `P` of the chip that looks at those five and that every shared operation of the blocks keeps. -/
structure Handed (P : Ef24 → Prop) : Prop where
  same : ∀ u v : Ef24, u.Agrees v → P u → P v
  post : ∀ u kind index detail, P u → P (u.post kind index detail)
  events : ∀ (u : Ef24) e, e.queue.length ≤ u.events.queue.length → P u → P { u with events := e }
  rumble : ∀ (u : Ef24) r, u.coreRunning = true → u.rumble.Moves r → P u → P { u with rumble := r }
  limits : ∀ (u : Ef24) g t, g < t → P u → P { u with rumble := { u.rumble with guardStrength := g, heavyThreshold := t } }
  flag : ∀ (u : Ef24) op, op.fromCommand = false → u.save.actionOps < 8 → P u → P (u.joinFlags op)
  ask : ∀ (u : Ef24) op, op.fromCommand = true → u.awaitsFlag = false → P u → P (u.joinFlags op)
  posted : ∀ (u : Ef24) p, u.save.buffer.length < 8 → P u →
    P { u with save := { u.save with buffer := u.save.buffer ++ [p] } }
  save : ∀ (u : Ef24) s, s.buffer = u.save.buffer → s.flags = u.save.flags → P u → P { u with save := s }
  state : ∀ (u : Ef24) c n, u.coreRunning = true → c = .run ∨ c = .enteringSleep → P u →
    P { u with chip := some c, free := n }

namespace Handed

variable {P : Ef24 → Prop} (h : Handed P)

include h

theorem postDone {u : Ef24} (c : Command) (status : Status) (item : Nat) (hu : P u) : P (u.postDone c status item) :=
  h.post _ _ _ _ hu

theorem respond {u : Ef24} (status : Status) (results : List Word) (hu : P u) : P (u.respond status results) :=
  h.same u _ ⟨rfl, rfl, rfl, rfl, rfl⟩ hu

theorem postAll {u : Ef24} (ps : List Posting) (hu : P u) : P (u.postAll ps) := by
  unfold Ef24.postAll
  induction ps generalizing u with
  | nil => exact hu
  | cons p ps ih => exact ih (h.post _ _ _ _ hu)

theorem withRumble {u : Ef24} (x : Rumble × List Posting) (hr : u.coreRunning = true) (hx : u.rumble.Moves x.1)
    (hu : P u) : P (u.withRumble x) :=
  h.postAll _ (h.rumble u x.1 hr hx hu)

theorem removeRumble {u : Ef24} (cause : CutCause) (hr : u.coreRunning = true) (hu : P u) : P (u.removeRumble cause) :=
  h.withRumble _ hr (Rumble.removeAll_moves _ _) hu

theorem submitRumble {u : Ef24} (q : Request) (hr : u.coreRunning = true) (hu : P u) : P (u.submitRumble q) := by
  have hmoves := Rumble.submit_moves u.rumble q u.ceiling
  unfold Ef24.submitRumble
  dsimp only
  split
  · split
    · exact h.withRumble _ hr hmoves hu
    · exact h.withRumble _ hr hmoves hu
  · exact h.withRumble _ hr hmoves hu
  · exact h.withRumble _ hr hmoves hu

/-! ## Sound -/

theorem perform {u : Ef24} (x : SoundEffect) (hr : u.coreRunning = true) (hu : P u) : P (u.perform x) := by
  cases x with
  | post kind index detail => exact h.post _ _ _ _ hu
  | link voice pattern priority => exact h.submitRumble _ hr hu
  | stopped voice => exact h.withRumble _ hr (Rumble.voiceStopped_moves _ _ _) hu

theorem performAll {u : Ef24} (xs : List SoundEffect) (hr : u.coreRunning = true) (hu : P u) :
    P (xs.foldl Ef24.perform u) := by
  induction xs generalizing u with
  | nil => exact hu
  | cons x xs ih =>
    have hchip : (u.perform x).chip = u.chip := by rw [perform_eq]
    exact ih ((coreRunning_of_chip hchip).trans hr) (h.perform x hr hu)

theorem withSound {u : Ef24} (x : Sound × List SoundEffect) (hr : u.coreRunning = true) (hu : P u) :
    P (u.withSound x) :=
  h.performAll x.2 (u := { u with sound := x.1 }) hr (h.same u _ ⟨rfl, rfl, rfl, rfl, rfl⟩ hu)

theorem onVoice {u : Ef24} (f : Nat → Voice → Voice × List SoundEffect) (i : Nat) (hr : u.coreRunning = true)
    (hu : P u) : P (u.onVoice f i) :=
  h.withSound _ hr hu

theorem refuseCue {u : Ef24} (cue : Nat) (x : PlayResult) (hu : P u) : P (u.refuseCue cue x) := by
  unfold Ef24.refuseCue
  split
  · exact hu
  · exact h.post _ _ _ _ hu
  · exact h.post _ _ _ _ hu

/-! ## Dispatches -/

theorem updateRomPort {u : Ef24} (hu : P u) : P u.updateRomPort := by
  rw [updateRomPort_eq]
  exact h.same u _ ⟨rfl, rfl, rfl, rfl, rfl⟩ hu

theorem flagAction {u : Ef24} (action : Nat) (kind : FlagKind) (first count : Nat) (hu : P u) :
    P (u.flagAction action kind first count) := by
  unfold Ef24.flagAction
  split
  · exact h.post _ _ _ _ hu
  split
  · exact h.post _ _ _ _ hu
  · rename_i hroom
    exact h.flag _ _ rfl (Nat.not_le.mp hroom) hu

theorem request {u : Ef24} (n : Nat) (e : ActionEntry) (kind : ActionKind) (hr : u.coreRunning = true) (hu : P u) :
    P (u.request n e kind) := by
  cases kind with
  | playCue => exact h.updateRomPort (h.refuseCue _ _ (h.withSound _ hr hu))
  | stopCue => exact h.updateRomPort (h.withSound _ hr hu)
  | silence => exact h.updateRomPort (h.withSound _ hr hu)
  | rumble => exact h.submitRumble _ hr hu
  | rumbleCut => exact h.removeRumble _ hr hu
  | flagSet => exact h.flagAction _ _ _ _ hu
  | flagClear => exact h.flagAction _ _ _ _ hu
  | flagClearRange => exact h.flagAction _ _ _ _ hu
  | post => exact h.post _ _ _ _ hu
  | invalid => exact hu

theorem visit {u : Ef24} (source : DispatchSource) (first n : Nat) (e : ActionEntry) (kind : ActionKind)
    (hr : u.coreRunning = true) (hu : P u) : P (u.visit source first n e kind) := by
  unfold Ef24.visit
  split
  · exact h.post _ _ _ _ hu
  · exact h.request _ _ _ hr hu

theorem walk (source : DispatchSource) (first left n : Nat) {u : Ef24} (hr : u.coreRunning = true) (hu : P u) :
    P (Ef24.walk source first left n u) := by
  induction left generalizing n u with
  | zero => exact h.post _ _ _ _ hu
  | succ left ih =>
    unfold Ef24.walk
    split
    case h_1 => exact h.post _ _ _ _ hu
    case h_2 => exact h.post _ _ _ _ hu
    case h_3 kind _ _ =>
      split
      case h_1 => exact h.visit _ _ _ _ _ hr hu
      case h_2 next _ =>
        have hchip : (u.visit source first n (u.action n) kind).chip = u.chip := by rw [visit_eq]
        exact ih next ((coreRunning_of_chip hchip).trans hr) (h.visit _ _ _ _ _ hr hu)

theorem dispatch {u : Ef24} (source : DispatchSource) (first : Nat) (hr : u.coreRunning = true) (hu : P u) :
    P (u.dispatch source first) :=
  h.walk _ _ _ _ hr hu

/-! ## The Day Schedule and the calendar -/

theorem onEntry {u : Ef24} (i : Nat) (f : ScheduleEntry → ScheduleEntry) (hu : P u) : P (u.onEntry i f) :=
  h.same u _ ⟨rfl, rfl, rfl, rfl, rfl⟩ hu

theorem onCalendar {u : Ef24} (f : Calendar → Calendar) (hu : P u) : P (u.onCalendar f) :=
  h.same u _ ⟨rfl, rfl, rfl, rfl, rfl⟩ hu

theorem postWake {u : Ef24} (i : Nat) (hu : P u) : P (u.postWake i) := by
  unfold Ef24.postWake
  split
  · exact h.post _ _ _ _ hu
  · exact hu

theorem fire {u : Ef24} (i : Nat) (hu : P u) : P (u.fire i) := by
  have hfired : P (u.onEntry i ScheduleEntry.afterFiring) := h.onEntry _ _ hu
  unfold Ef24.fire
  dsimp only
  split
  case h_1 hrun =>
    have hr : (u.onEntry i ScheduleEntry.afterFiring).coreRunning = true := by unfold Ef24.coreRunning; rw [hrun]
    exact h.dispatch _ _ hr hfired
  case h_2 => exact h.postWake _ (h.onEntry _ _ hfired)
  case h_3 => exact h.postWake _ (h.onEntry _ _ hfired)
  case h_4 => exact h.onEntry _ _ hfired
  case h_5 => exact h.onEntry _ _ hfired

theorem fireAll {u : Ef24} (fires : ScheduleEntry → Bool) (hu : P u) : P (u.fireAll fires) := by
  unfold Ef24.fireAll
  generalize entryNumbers.filter _ = l
  induction l generalizing u with
  | nil => exact hu
  | cons i l ih => exact ih (h.fire i hu)

theorem deliverAll {u : Ef24} (hr : u.coreRunning = true) (hu : P u) : P u.deliverAll := by
  unfold Ef24.deliverAll
  generalize entryNumbers = l
  induction l generalizing u with
  | nil => exact hu
  | cons i l ih =>
    have hchip : (u.deliver i).chip = u.chip := by rw [deliver_eq]
    refine ih ((coreRunning_of_chip hchip).trans hr) ?_
    unfold Ef24.deliver
    split
    · exact h.onEntry _ _ (h.dispatch _ _ hr hu)
    · exact hu

theorem countRollover {u : Ef24} (hu : P u) : P u.countRollover := by
  unfold Ef24.countRollover Ef24.noteRollover
  split
  · exact h.fireAll _ (h.post _ _ _ _ (h.onCalendar _ hu))
  · exact h.fireAll _ (h.onCalendar _ (h.onCalendar _ hu))

theorem examineSecond {u : Ef24} (hu : P u) : P u.examineSecond := by
  have hrolled : P (if u.calendar.now.isRollover u.calendar.dayStart then u.countRollover else u) := by
    split
    · exact h.countRollover hu
    · exact hu
  unfold Ef24.examineSecond
  dsimp only
  split
  · exact h.fireAll _ hrolled
  · exact hrolled

theorem second {u : Ef24} (hu : P u) : P u.second := by
  unfold Ef24.second
  split
  · exact hu
  split
  · unfold Ef24.secondBehind Ef24.noteCaughtUp
    dsimp only
    split
    · split
      · exact h.post _ _ _ _ (h.onCalendar _ (h.onCalendar _ hu))
      · exact h.onCalendar _ (h.onCalendar _ hu)
    · exact h.onCalendar _ hu
  · unfold Ef24.secondTrue
    dsimp only
    split
    · exact h.examineSecond (h.onCalendar _ hu)
    · exact h.onCalendar _ hu

theorem crystalSecond {u : Ef24} (hu : P u) : P u.crystalSecond := by
  unfold Ef24.crystalSecond
  split
  · exact h.second hu
  · exact hu

theorem setForward {u : Ef24} (t : DateTime) (hu : P u) : P (u.setForward t) := by
  have hset : P ((u.onCalendar (fun c => { c with now := t, high := t.instant, behind := false })).noteSetCaughtUp
      u.calendar.behind) := by
    unfold Ef24.noteSetCaughtUp
    split
    · exact h.post _ _ _ _ (h.onCalendar _ hu)
    · exact h.onCalendar _ hu
  unfold Ef24.setForward Ef24.applyDays
  split
  · exact h.fireAll _ (h.post _ _ _ _ (h.onCalendar _ hset))
  · exact hset

/-! ## The Loader and sleep -/

theorem endLoad {u : Ef24} (status : Status) (item : Nat) (hu : P u) : P (u.endLoad status item) :=
  h.postDone _ _ _ (h.same u { u with loader := none } ⟨rfl, rfl, rfl, rfl, rfl⟩ hu)

theorem abortLoad {u : Ef24} (hu : P u) : P u.abortLoad := by
  unfold Ef24.abortLoad
  split
  · exact h.endLoad _ _ hu
  · exact hu

theorem swap {u : Ef24} (l : Load) (hr : u.coreRunning = true) (hu : P u) : P (u.swap l) := by
  unfold Ef24.swap
  cases l.table with
  | windows => exact h.same u _ ⟨rfl, rfl, rfl, rfl, rfl⟩ hu
  | actions => exact h.same u _ ⟨rfl, rfl, rfl, rfl, rfl⟩ hu
  | cues => exact h.same u _ ⟨rfl, rfl, rfl, rfl, rfl⟩ hu
  | patterns =>
    exact h.removeRumble _ (u := { u with rumble := { u.rumble with headers := u.headersAfter l } }) hr
      (h.rumble u _ hr (.of_eq rfl rfl rfl) hu)
  | steps =>
    exact h.removeRumble _ (u := { u with rumble := { u.rumble with steps := u.stepsAfter l } }) hr
      (h.rumble u _ hr (.of_eq rfl rfl rfl) hu)
  | schedule => exact h.same u _ ⟨rfl, rfl, rfl, rfl, rfl⟩ hu

theorem checkLoad {u : Ef24} (hr : u.coreRunning = true) (hu : P u) : P u.checkLoad := by
  unfold Ef24.checkLoad
  split
  · split
    · split
      · exact h.endLoad _ _ hu
      · exact h.endLoad _ _ (h.swap _ hr hu)
    · exact hu
  · exact hu

theorem reactToSleep {u : Ef24} (n : Nat) (hr : u.coreRunning = true) (hu : P u) : P (u.reactToSleep n) := by
  have sound : ∀ {v : Ef24}, v.chip = u.chip → P v → P v.soundSleep := fun hchip hv =>
    h.withSound _ ((coreRunning_of_chip hchip).trans hr) hv
  have drive : ∀ {v : Ef24}, v.chip = u.chip → P v → P (v.removeRumble .sleep) := fun hchip hv =>
    h.removeRumble _ ((coreRunning_of_chip hchip).trans hr) hv
  have soundChip : ∀ v : Ef24, v.soundSleep.chip = v.chip := fun v => by rw [soundSleep_eq]
  have driveChip : ∀ v : Ef24, (v.removeRumble .sleep).chip = v.chip := fun v => by rw [removeRumble_eq]
  unfold Ef24.reactToSleep
  split
  · exact h.abortLoad (drive (soundChip u) (sound rfl hu))
  · exact drive ((abortLoad_chip _).trans (soundChip u)) (h.abortLoad (sound rfl hu))
  · exact h.abortLoad (sound (driveChip u) (drive rfl hu))
  · exact sound ((abortLoad_chip _).trans (driveChip u)) (h.abortLoad (drive rfl hu))
  · exact drive ((soundChip _).trans (abortLoad_chip u)) (sound (abortLoad_chip u) (h.abortLoad hu))
  · exact sound ((driveChip _).trans (abortLoad_chip u)) (drive (abortLoad_chip u) (h.abortLoad hu))

theorem enterSleep {u : Ef24} (hr : u.coreRunning = true) (hu : P u) : P u.enterSleep :=
  h.reactToSleep _ rfl (h.state u _ _ hr (.inr rfl) hu)

end Handed

end Sys2Proof.Machine
end

section
/-! PROOFS. What the blocks hand to each other, continued: the frames, the console's transactions, the Save Controller's
accesses, and the block steps keep what the shared operations keep. -/

namespace Sys2Proof.Machine

/-- A frame that waits: the core runs, and no flag operation of the command stands in the list. -/
theorem executes_ready {u : Ef24} {c : Command} (hexec : u.executes c = true) :
    u.coreRunning = true ∧ u.awaitsFlag = false := by
  unfold Ef24.executes Ef24.frameWaits at hexec
  simp only [Bool.and_eq_true, Bool.not_eq_true'] at hexec
  obtain ⟨⟨⟨hr, -⟩, hwaits⟩, -⟩ := hexec
  exact ⟨hr, hwaits⟩

namespace Handed

variable {P : Ef24 → Prop} (h : Handed P)

include h

/-! ## The frames -/

theorem command {u : Ef24} (c : CommandUnit) (hu : P u) : P { u with command := c } :=
  h.same u _ ⟨rfl, rfl, rfl, rfl, rfl⟩ hu

theorem commandAndSave {u : Ef24} (c : CommandUnit) (s : Save) (hbuffer : s.buffer = u.save.buffer)
    (hflags : s.flags = u.save.flags) (hu : P u) : P { u with command := c, save := s } :=
  h.command (u := { u with save := s }) c (h.save u s hbuffer hflags hu)

theorem actionRun {u : Ef24} (hr : u.coreRunning = true) (hu : P u) : P u.actionRun := by
  unfold Ef24.actionRun
  split
  · exact h.respond _ _ hu
  split
  · exact h.respond _ _ hu
  · exact h.respond _ _ (h.dispatch _ _ hr hu)

theorem cuePlay {u : Ef24} (hr : u.coreRunning = true) (hu : P u) : P u.cuePlay := by
  unfold Ef24.cuePlay
  split
  · exact h.respond _ _ hu
  split
  · exact h.respond _ _ hu
  · dsimp only
    rw [answerPlay_eq]
    exact h.command _ (h.withSound _ hr hu)

theorem voiceStop {u : Ef24} (hr : u.coreRunning = true) (hu : P u) : P u.voiceStop := by
  unfold Ef24.voiceStop
  split
  · exact h.respond _ _ hu
  · exact h.respond _ _ (h.onVoice _ _ hr hu)

theorem rumbleStart {u : Ef24} (hr : u.coreRunning = true) (hu : P u) : P u.rumbleStart := by
  unfold Ef24.rumbleStart
  split
  · exact h.respond _ _ hu
  split
  · exact h.respond _ _ hu
  split
  · exact h.respond _ _ hu
  split
  · exact h.respond _ _ hu
  split
  · exact h.respond _ _ hu
  · rw [answerStart_eq]
    exact h.command _ (h.submitRumble _ hr hu)

theorem rumbleEnable {u : Ef24} (hr : u.coreRunning = true) (hu : P u) : P u.rumbleEnable := by
  unfold Ef24.rumbleEnable Ef24.enableRumble
  split
  · exact h.respond _ _ hu
  split
  · exact h.respond _ _ (h.rumble u _ hr (.of_eq rfl rfl rfl) hu)
  · exact h.respond _ _ (h.removeRumble _ (u := { u with rumble := { u.rumble with enabled := false } }) hr
      (h.rumble u _ hr (.of_eq rfl rfl rfl) hu))

theorem rumbleLimits {u : Ef24} (hu : P u) : P u.rumbleLimits := by
  unfold Ef24.rumbleLimits
  split
  · exact h.respond _ _ hu
  · rename_i hlimits
    simp only [limitsBad, decide_eq_true_eq] at hlimits
    exact h.respond _ _ (h.limits u _ _ (by omega) hu)

theorem slotVerify {u : Ef24} (hu : P u) : P u.slotVerify := by
  unfold Ef24.slotVerify Ef24.withSlot
  split
  · exact h.respond _ _ hu
  split
  · exact h.respond _ _ hu
  split
  · exact h.respond _ _ hu
  · dsimp only
    split
    · exact h.respond _ _ (h.save u _ rfl rfl hu)
    · exact h.postDone _ _ _ (h.respond _ _ (h.save u _ rfl rfl hu))

theorem askFlags {u : Ef24} (kind : FlagKind) (first count : Nat) (polarity : Bool) (hwaits : u.awaitsFlag = false)
    (hu : P u) : P (u.askFlags kind first count polarity) := by
  unfold Ef24.askFlags
  split
  · exact h.respond _ _ hu
  · exact h.ask _ _ rfl hwaits hu

theorem singleFlag {u : Ef24} (kind : FlagKind) (hwaits : u.awaitsFlag = false) (hu : P u) :
    P (u.singleFlag kind) := by
  unfold Ef24.singleFlag
  split
  · exact h.respond _ _ hu
  · exact h.askFlags _ _ _ _ hwaits hu

theorem flagScan {u : Ef24} (hwaits : u.awaitsFlag = false) (hu : P u) : P u.flagScan := by
  unfold Ef24.flagScan
  split
  · exact h.respond _ _ hu
  split
  · exact h.respond _ _ hu
  · exact h.askFlags _ _ _ _ hwaits hu

theorem flagClearRange {u : Ef24} (hwaits : u.awaitsFlag = false) (hu : P u) : P u.flagClearRange := by
  unfold Ef24.flagClearRange
  split
  · exact h.respond _ _ hu
  split
  · exact h.respond _ _ hu
  · exact h.askFlags _ _ _ _ hwaits hu

theorem clockSet {u : Ef24} (hu : P u) : P u.clockSet := by
  unfold Ef24.clockSet
  dsimp only
  split
  · exact h.respond _ _ hu
  split
  · exact h.respond _ _ (h.onCalendar _ hu)
  split
  · exact h.respond _ _ (h.setForward _ hu)
  · exact h.respond _ _ (h.post _ _ _ _ (h.onCalendar _ hu))

theorem calendarSetting {u : Ef24} (refused : Prop) [Decidable refused] (f : Calendar → Calendar) (hu : P u) :
    P (if refused then u.respond .badArg [] else (u.onCalendar f).respond .ok []) := by
  split
  · exact h.respond _ _ hu
  · exact h.respond _ _ (h.onCalendar _ hu)

theorem eventTake {u : Ef24} (hu : P u) : P u.eventTake := by
  have hshorter : (u.events.queue.drop (u.arg 0)).length ≤ u.events.queue.length := by
    rw [List.length_drop]
    exact Nat.sub_le _ _
  unfold Ef24.eventTake
  split
  · exact h.respond _ _ hu
  · exact h.respond _ _ (h.events u (u.events.afterTake (u.arg 0)) hshorter hu)

theorem eventMaskSet {u : Ef24} (hu : P u) : P u.eventMaskSet := by
  unfold Ef24.eventMaskSet
  split
  · exact h.respond _ _ hu
  · exact h.respond _ _ (h.events u _ (le_refl _) hu)

theorem sleep {u : Ef24} (hr : u.coreRunning = true) (hu : P u) : P u.sleep := by
  unfold Ef24.sleep
  split
  · exact h.respond _ _ hu
  · exact h.respond _ _ (h.enterSleep hr hu)

theorem wake {u : Ef24} (hr : u.coreRunning = true) (hu : P u) : P u.wake := by
  unfold Ef24.wake
  split
  · exact h.respond _ _ (h.deliverAll (u := { u with chip := some .run }) rfl (h.state u _ u.free hr (.inl rfl) hu))
  split
  · exact h.respond _ _ hu
  · exact h.respond _ _ hu

/-- The body of a command whose frame executes keeps what the shared operations keep. -/
theorem frame {u : Ef24} (c : Command) (hexec : u.executes c = true) (hu : P u) : P (frameBody c u) := by
  obtain ⟨hr, hwaits⟩ := executes_ready hexec
  cases c with
  | statusQuery => exact h.respond _ _ hu
  | tableRead => dsimp only [frameBody]; rw [tableRead_eq]; exact h.command _ hu
  | loadTable => dsimp only [frameBody]; rw [loadTable_eq]; exact h.same u _ ⟨rfl, rfl, rfl, rfl, rfl⟩ hu
  | loadAbort => exact h.respond _ _ (h.abortLoad hu)
  | actionRun => exact h.actionRun hr hu
  | cuePlay => exact h.cuePlay hr hu
  | voiceStop => exact h.voiceStop hr hu
  | soundStopAll => exact h.respond _ _ (h.withSound _ hr hu)
  | soundVolume => dsimp only [frameBody]; rw [soundVolume_eq]; exact h.same u _ ⟨rfl, rfl, rfl, rfl, rfl⟩ hu
  | voiceStatus => exact h.respond _ _ hu
  | rumbleStart => exact h.rumbleStart hr hu
  | rumbleCut => exact h.respond _ _ (h.removeRumble _ hr hu)
  | rumbleEnable => exact h.rumbleEnable hr hu
  | rumbleLimits => exact h.rumbleLimits hu
  | rumbleStatus => exact h.respond _ _ hu
  | saveFormat => dsimp only [frameBody]; rw [saveFormat_eq]; exact h.commandAndSave _ _ rfl rfl hu
  | slotSeed => dsimp only [frameBody]; rw [slotSeed_eq]; exact h.commandAndSave _ _ rfl rfl hu
  | slotCommit => dsimp only [frameBody]; rw [slotCommit_eq]; exact h.commandAndSave _ _ rfl rfl hu
  | slotDiscard => dsimp only [frameBody]; rw [slotDiscard_eq]; exact h.commandAndSave _ _ rfl rfl hu
  | slotVerify => exact h.slotVerify hu
  | slotInfo => dsimp only [frameBody]; rw [slotInfo_eq]; exact h.command _ hu
  | flagTest => exact h.singleFlag _ hwaits hu
  | flagSet => exact h.singleFlag _ hwaits hu
  | flagClear => exact h.singleFlag _ hwaits hu
  | flagToggle => exact h.singleFlag _ hwaits hu
  | flagScan => exact h.flagScan hwaits hu
  | flagClearRange => exact h.flagClearRange hwaits hu
  | clockSet => exact h.clockSet hu
  | clockRead => exact h.respond _ _ hu
  | dayStartSet => exact h.calendarSetting _ _ hu
  | gameDayRead => exact h.respond _ _ hu
  | advanceCapSet => exact h.calendarSetting _ _ hu
  | timerRun => exact h.respond _ _ (h.onCalendar _ hu)
  | timerStop => exact h.respond _ _ (h.onCalendar _ hu)
  | timerClear => exact h.respond _ _ (h.onCalendar _ hu)
  | timerRead => exact h.respond _ _ hu
  | eventTake => exact h.eventTake hu
  | eventMaskSet => exact h.eventMaskSet hu
  | sleep => exact h.sleep hr hu
  | wake => exact h.wake hr hu
  | supplyRead => exact h.respond _ _ hu

/-! ## The console's transactions -/

theorem consoleRead {u : Ef24} (addr : Address) (hu : P u) : P (u.consoleRead addr) := by
  rw [consoleRead_eq]
  exact h.same { u with save := { u.save with port := (u.consoleRead addr).save.port } } _ ⟨rfl, rfl, rfl, rfl, rfl⟩
    (h.save u _ rfl rfl hu)

theorem postWrite {u : Ef24} (slot offset : Nat) (value : Word) (hu : P u) : P (u.postWrite slot offset value) := by
  unfold Ef24.postWrite
  split
  · exact h.post _ _ _ _ (h.save u _ rfl rfl hu)
  · rename_i hroom
    exact h.posted u _ (Nat.not_le.mp hroom) hu

theorem stageWrite {u : Ef24} (slot offset : Nat) (value : Word) (hu : P u) : P (u.stageWrite slot offset value) := by
  unfold Ef24.stageWrite
  split
  · exact h.save u _ rfl rfl hu
  split
  · exact h.postWrite _ _ _ (h.postDone _ _ _ (h.save u _ rfl rfl hu))
  split
  · have hended : P ((u.sequence .idle).postDone .slotSeed .disturbed slot) :=
      h.postDone _ _ _ (h.save u _ rfl rfl hu)
    exact h.postWrite _ _ _ (h.save _ _ rfl rfl hended)
  · exact h.postWrite _ _ _ hu

theorem selectBank {u : Ef24} (i : Nat) (e : WindowEntry) (v : Word) (hu : P u) : P (u.selectBank i e v) := by
  unfold Ef24.selectBank
  split
  · exact hu
  split
  · exact h.same u _ ⟨rfl, rfl, rfl, rfl, rfl⟩ hu
  · exact h.post _ _ _ _ hu

theorem trigger {u : Ef24} (i : Nat) (e : WindowEntry) (v : Word) (hr : u.coreRunning = true) (hu : P u) :
    P (u.trigger i e v) := by
  unfold Ef24.trigger
  split
  · exact hu
  split
  · exact h.dispatch _ _ hr hu
  · exact h.post _ _ _ _ hu

theorem writeWindow {u : Ef24} (i : Nat) (e : WindowEntry) (addr : Address) (v : Word) (hr : u.coreRunning = true)
    (hu : P u) : P (u.writeWindow i e addr v) := by
  unfold Ef24.writeWindow
  split
  · exact h.selectBank _ _ _ hu
  · unfold Ef24.writeStage
    split
    · exact h.stageWrite _ _ _ hu
    · exact hu
  · exact hu
  · exact hu
  · exact h.trigger _ _ _ hr hu
  · rw [writePort_eq]
    exact h.same u _ ⟨rfl, rfl, rfl, rfl, rfl⟩ hu
  · exact hu
  · exact hu

theorem consoleWrite {u : Ef24} (addr : Address) (v : Word) (hu : P u) : P (u.consoleWrite addr v) := by
  unfold Ef24.consoleWrite
  split
  case isTrue hr =>
    split
    · exact h.writeWindow _ _ _ _ hr hu
    · exact hu
  case isFalse => exact hu

/-! ## The ROM port -/

theorem handOver {u : Ef24} (r : Requester) (line : Nat) (words : List Word) (hr : u.coreRunning = true) (hu : P u) :
    P (u.handOver r line words) := by
  cases r with
  | voice i => exact h.onVoice _ _ hr hu
  | loader => exact h.same u _ ⟨rfl, rfl, rfl, rfl, rfl⟩ hu

theorem completeFetch {u : Ef24} (f : Fetch) (hr : u.coreRunning = true) (hu : P u) : P (u.completeFetch f) := by
  have hidle : P { u with romPort := .idle } := h.same u _ ⟨rfl, rfl, rfl, rfl, rfl⟩ hu
  unfold Ef24.completeFetch
  dsimp only
  split
  · exact hidle
  · exact h.handOver _ _ _ hr hidle

theorem fetchWord {u : Ef24} (hr : u.coreRunning = true) (hu : P u) : P u.fetchWord := by
  unfold Ef24.fetchWord
  split
  · split
    · exact h.same u _ ⟨rfl, rfl, rfl, rfl, rfl⟩ hu
    · exact h.completeFetch _ hr hu
  · exact hu
  · exact hu

theorem fetchComplete {u : Ef24} (hr : u.coreRunning = true) (hu : P u) : P u.fetchComplete := by
  unfold Ef24.fetchComplete
  split
  · split
    · exact hu
    · exact h.completeFetch _ hr hu
  · exact hu
  · exact hu

/-! ## The sequencer's accesses -/

theorem written {u : Ef24} (m : Memory) (hu : P u) : P { u with sram := m } :=
  h.same u _ ⟨rfl, rfl, rfl, rfl, rfl⟩ hu

theorem judgeLive {u : Ef24} (k : Nat) (crc : Word) (hu : P u) : P (u.judgeLive k crc) := by
  unfold Ef24.judgeLive
  split
  · exact hu
  · exact h.post _ _ _ _ (h.save u _ rfl rfl hu)

theorem verifyFrom {u : Ef24} (fuel k : Nat) (hu : P u) : P (u.verifyFrom fuel k) := by
  induction fuel generalizing u k with
  | zero => exact h.save u _ rfl rfl hu
  | succ fuel ih =>
    unfold Ef24.verifyFrom
    split
    · exact h.save u _ rfl rfl hu
    split
    · exact ih _ hu
    split
    · exact ih _ (h.judgeLive _ _ hu)
    · exact h.save u _ rfl rfl hu

theorem afterRecord {u : Ef24} (k : Nat) (hu : P u) : P (u.afterRecord k) := by
  unfold Ef24.afterRecord
  split
  · exact h.save u _ rfl rfl hu
  · exact h.verifyFrom _ _ hu

theorem judgeRecord {u : Ef24} (k : Nat) (ws : List Word) (hu : P u) : P (u.judgeRecord k ws) := by
  unfold Ef24.judgeRecord
  split
  · exact h.afterRecord _ (h.save u _ rfl rfl hu)
  · exact h.save u _ rfl rfl hu

theorem recoveryAccess {u : Ef24} (stage : RecoveryStage) (hu : P u) : P (u.recoveryAccess stage) := by
  cases stage with
  | volumeRecord got =>
    unfold Ef24.recoveryAccess
    dsimp only
    split
    · exact h.save u _ rfl rfl hu
    · rw [judgeVolume_eq]
      exact h.save u _ rfl rfl hu
  | intentRecord got =>
    unfold Ef24.recoveryAccess
    dsimp only
    split
    · exact h.save u _ rfl rfl hu
    · rw [readIntent_eq]
      exact h.save u _ rfl rfl hu
  | intentScan slot new prior index crc =>
    unfold Ef24.recoveryAccess
    dsimp only
    rw [judgeIntent_eq]
    exact h.save u _ rfl rfl hu
  | resolving slot forward writes =>
    cases writes with
    | nil => exact hu
    | cons x rest =>
      have hwritten : P { u with sram := u.sram.write x.1 x.2 } := h.written _ hu
      unfold Ef24.recoveryAccess
      dsimp only
      split
      · exact h.save _ _ rfl rfl (h.post _ _ _ _ hwritten)
      · exact h.save _ _ rfl rfl hwritten
  | slotRecord k got =>
    unfold Ef24.recoveryAccess
    dsimp only
    split
    · exact h.save u _ rfl rfl hu
    · exact h.judgeRecord _ _ hu
  | rewriting k writes =>
    cases writes with
    | nil => exact hu
    | cons x rest =>
      have hwritten : P { u with sram := u.sram.write x.1 x.2 } := h.written _ hu
      unfold Ef24.recoveryAccess
      dsimp only
      split
      · exact h.afterRecord _ (h.post _ _ _ _ (h.save _ _ rfl rfl hwritten))
      · exact h.save _ _ rfl rfl hwritten
  | verifying k index crc =>
    unfold Ef24.recoveryAccess
    dsimp only
    split
    · exact h.save u _ rfl rfl hu
    · exact h.verifyFrom _ _ (h.judgeLive _ _ hu)
  | finished => exact hu

theorem writeNext {u : Ef24} (writes : List (Nat × Word)) (q : List (Nat × Word) → Sequencer) (hu : P u) :
    P (u.writeNext writes q) := by
  rw [writeNext_eq]
  exact h.save { u with sram := (u.writeNext writes q).sram } _ rfl rfl (h.written _ hu)

theorem copyNext {u : Ef24} (k index : Nat) (held : Option Word) (hu : P u) : P (u.copyNext k index held) := by
  rw [copyNext_eq]
  exact h.save { u with sram := (u.copyNext k index held).sram } _ rfl rfl (h.written _ hu)

theorem sequencerStep {u : Ef24} (hu : P u) : P u.sequencerStep := by
  unfold Ef24.sequencerStep
  cases u.save.sequencer with
  | idle => exact hu
  | formatDraining sizes => exact hu
  | formatting sizes writes => exact h.writeNext _ _ hu
  | seedDraining k => exact hu
  | copying k index held => exact h.copyNext _ _ _ hu
  | commitDraining k length => exact hu
  | scanning k length index crc => exact h.save u _ rfl rfl hu
  | guarding k length crc => exact hu
  | intent commit k r writes => exact h.writeNext _ _ hu
  | switching commit k r writes => exact h.writeNext _ _ hu
  | closing commit k writes => exact h.writeNext _ _ hu
  | verifying k index crc => exact h.save u _ rfl rfl hu
  | recovering stage => exact h.recoveryAccess _ hu

theorem sequencerAccess {u : Ef24} (hu : P u) : P u.sequencerAccess := by
  have hstep : P (if u.save.wants then u.sequencerStep else u) := by
    split
    · exact h.sequencerStep hu
    · exact hu
  exact h.save _ _ rfl rfl hstep

end Handed

end Sys2Proof.Machine
end

section
/-! PROOFS. Every step keeps the five queues within their places (R91, R112, R130, R168). -/

namespace Sys2Proof.Machine

/-- A post leaves the Event Queue within its 16 places: it joins only where one is free (R168). -/
theorem take_fits {q : EventUnit} (e : Event) (hfits : q.queue.length ≤ 16) : (q.take e).queue.length ≤ 16 := by
  unfold EventUnit.take
  split
  case isTrue hroom =>
    change (q.queue ++ [e]).length ≤ 16
    rw [List.length_append]
    exact hroom
  case isFalse => exact hfits

/-- The queues fit where none of them is longer and the flag operations are some of those listed before. -/
theorem queuesFit_of_shorter {u v : Ef24} (hevents : v.events.queue.length ≤ u.events.queue.length)
    (hbuffer : v.save.buffer.length ≤ u.save.buffer.length) (hqueue : v.rumble.queue.length ≤ u.rumble.queue.length)
    (hflags : v.save.flags.Sublist u.save.flags) (hu : u.queuesFit) : v.queuesFit := by
  obtain ⟨hu1, hu2, hu3, hu4, hu5⟩ := hu
  exact ⟨hevents.trans hu1, hbuffer.trans hu2, hqueue.trans hu3, (hflags.filter _).length_le.trans hu4,
    (hflags.filter _).length_le.trans hu5⟩

/-- The queues fit where they stand as before. -/
theorem queuesFit_of_eq {u v : Ef24} (hevents : v.events = u.events) (hbuffer : v.save.buffer = u.save.buffer)
    (hqueue : v.rumble.queue = u.rumble.queue) (hflags : v.save.flags = u.save.flags) (hu : u.queuesFit) : v.queuesFit :=
  queuesFit_of_shorter (by rw [hevents]) (by rw [hbuffer]) (by rw [hqueue]) (by rw [hflags]) hu

/-- No flag operation from the command stands in the list while none is awaited. -/
theorem commandOps_of_not_awaits {u : Ef24} (hwaits : u.awaitsFlag = false) :
    u.save.flags.filter (·.fromCommand) = [] := by
  unfold Ef24.awaitsFlag at hwaits
  rw [List.any_eq_false] at hwaits
  exact List.filter_eq_nil_iff.mpr hwaits

/-- The shared operations of the blocks keep the queues within their places. -/
theorem queuesFit_handed : Handed Ef24.queuesFit where
  same u v hsame hu :=
    queuesFit_of_eq hsame.events (by rw [hsame.save]) (by rw [hsame.rumble]) (by rw [hsame.save]) hu
  post u kind index detail hu := by
    obtain ⟨hu1, hu2, hu3, hu4, hu5⟩ := hu
    exact ⟨take_fits _ hu1, hu2, hu3, hu4, hu5⟩
  events u e hshorter hu := queuesFit_of_shorter (u := u) hshorter (le_refl _) (le_refl _) (.refl _) hu
  rumble u r _ hmoves hu := by
    obtain ⟨hu1, hu2, hu3, hu4, hu5⟩ := hu
    exact ⟨hu1, hu2, hmoves.queue hu3, hu4, hu5⟩
  limits u g t _ hu := hu
  flag u op haction hroom hu := by
    obtain ⟨hu1, hu2, hu3, hu4, hu5⟩ := hu
    refine ⟨hu1, hu2, hu3, ?_, ?_⟩
    · unfold Save.actionOps at hroom ⊢
      rw [joinFlags_save, List.filter_append, List.length_append]
      simpa [haction] using hroom
    · rw [joinFlags_save, List.filter_append, List.length_append]
      simpa [haction] using hu5
  ask u op hcommand hwaits hu := by
    obtain ⟨hu1, hu2, hu3, hu4, hu5⟩ := hu
    refine ⟨hu1, hu2, hu3, ?_, ?_⟩
    · unfold Save.actionOps at hu4 ⊢
      rw [joinFlags_save, List.filter_append, List.length_append]
      simpa [hcommand] using hu4
    · rw [joinFlags_save, List.filter_append, commandOps_of_not_awaits hwaits]
      simp [hcommand]
  posted u p hroom hu := by
    obtain ⟨hu1, hu2, hu3, hu4, hu5⟩ := hu
    refine ⟨hu1, ?_, hu3, hu4, hu5⟩
    change (u.save.buffer ++ [p]).length ≤ 8
    rw [List.length_append]
    exact hroom
  save u s hbuffer hflags hu := queuesFit_of_eq (u := u) rfl hbuffer rfl hflags hu
  state u c n _ _ hu := hu

/-! ## The steps of the Save Controller and of the supply -/

theorem drainOne_queuesFit {u : Ef24} (hu : u.queuesFit) : u.drainOne.queuesFit := by
  unfold Ef24.drainOne
  split
  case h_1 => exact hu
  case h_2 p rest hbuffer =>
    refine queuesFit_of_shorter (u := u) (le_refl _) ?_ (le_refl _) (.refl _) hu
    rw [hbuffer]
    exact Nat.le_succ _

/-- A flag operation leaves the front of the list, or goes to its back with its origin as it was. -/
theorem flagAccess_queuesFit {u : Ef24} (hu : u.queuesFit) : u.flagAccess.queuesFit := by
  unfold Ef24.flagAccess
  split
  case h_1 => exact hu
  case h_2 op rest hflags =>
    have hends : ∀ m : Memory,
        ({ u with sram := m, save := { u.save with flags := rest, port := none } } : Ef24).queuesFit := fun m => by
      refine queuesFit_of_shorter (u := u) (le_refl _) (le_refl _) (le_refl _) ?_ hu
      rw [hflags]
      exact List.sublist_cons_self _ _
    dsimp only
    split
    · split
      · exact queuesFit_handed.respond _ _ (hends _)
      · exact hends _
    · obtain ⟨hu1, hu2, hu3, hu4, hu5⟩ := hu
      unfold Save.actionOps at hu4
      rw [hflags] at hu4 hu5
      refine ⟨hu1, hu2, hu3, ?_, ?_⟩
      · unfold Save.actionOps
        cases hfrom : op.fromCommand <;> simp_all [FlagOp.afterTurn]
      · cases hfrom : op.fromCommand <;> simp_all [FlagOp.afterTurn]

/-- Core reset values leave every queue empty. -/
theorem coreValues_queuesFit (u : Ef24) : u.coreValues.queuesFit :=
  ⟨Nat.zero_le _, Nat.zero_le _, Nat.zero_le _, Nat.zero_le _, Nat.zero_le _⟩

theorem endReset_queuesFit {u : Ef24} (hu : u.queuesFit) : u.endReset.queuesFit := by
  rw [endReset_eq]
  exact queuesFit_of_eq (u := u.postAll u.startupPosts) rfl (by simp) (by simp) (by simp)
    (queuesFit_handed.postAll u.startupPosts hu)

theorem reachGood_queuesFit (u : Ef24) : u.reachGood.queuesFit := by
  unfold Ef24.reachGood
  dsimp only
  generalize (if (u.setSupply .good).power.retained then u.setSupply .good else (u.setSupply .good).backupReset) = w
  split
  · exact coreValues_queuesFit w
  · exact endReset_queuesFit (u := w.holdCore) (coreValues_queuesFit w)

theorem halt_queuesFit {u : Ef24} (hu : u.queuesFit) : u.halt.queuesFit := by
  have hclosed : u.closeGate.queuesFit :=
    queuesFit_of_shorter (u := u) (le_refl _) (Nat.zero_le _) (le_refl _) (List.nil_sublist _) hu
  unfold Ef24.halt
  dsimp only
  split <;> exact hclosed

theorem noteSupply_queuesFit {u : Ef24} (hu : u.queuesFit) : u.noteSupply.queuesFit := by
  unfold Ef24.noteSupply
  split
  · exact queuesFit_handed.post _ _ _ _ hu
  · exact hu

theorem changeSupply_queuesFit {u : Ef24} (c : SupplyChange) (hu : u.queuesFit) : (u.changeSupply c).queuesFit := by
  cases c with
  | absentToRising => exact hu
  | risingToAbsent => exact hu
  | risingToGood => exact reachGood_queuesFit u
  | goodToLow => exact noteSupply_queuesFit (u := u.setSupply .low) hu
  | lowToGood => exact noteSupply_queuesFit (u := u.setSupply .good) hu
  | toFailing => exact halt_queuesFit (u := u.setSupply .failing) hu
  | failingToAbsent => exact coreValues_queuesFit (u.setSupply .absent)
  | failingToGood => exact reachGood_queuesFit u

theorem resetDraining_queuesFit {u : Ef24} (hu : u.queuesFit) : u.resetDraining.queuesFit := by
  obtain ⟨-, hu2, -, -, -⟩ := hu
  exact ⟨Nat.zero_le _, hu2, Nat.zero_le _, Nat.zero_le _, Nat.zero_le _⟩

theorem assertReset_queuesFit {u : Ef24} (hu : u.queuesFit) : u.assertReset.queuesFit := by
  unfold Ef24.assertReset
  dsimp only
  cases u.chip with
  | none => exact hu
  | some c =>
    cases c with
    | halted => exact coreValues_queuesFit { u with crstLow := true }
    | run => exact resetDraining_queuesFit (u := { u with crstLow := true }) hu
    | enteringSleep => exact resetDraining_queuesFit (u := { u with crstLow := true }) hu
    | asleep => exact resetDraining_queuesFit (u := { u with crstLow := true }) hu

theorem releaseReset_queuesFit {u : Ef24} (hu : u.queuesFit) : u.releaseReset.queuesFit := by
  unfold Ef24.releaseReset
  dsimp only
  split
  · refine endReset_queuesFit (queuesFit_of_shorter (u := u) (le_refl _) (Nat.zero_le _) (le_refl _) (.refl _) hu)
  · exact hu

/-! ## The invariant -/

/-- Everything a command can do keeps the queues within their places. -/
theorem queuesFit_kept : Kept Ef24.queuesFit (fun _ => True) where
  conclude v hv := queuesFit_of_eq (conclude_events v) (by rw [conclude_eq]) (by rw [conclude_eq]) (by rw [conclude_eq]) hv
  concluded _ _ := trivial
  motor _ _ _ _ hv := hv
  finish _ hr hv := queuesFit_handed.withRumble _ hr (Rumble.finish_moves _ _) hv
  onVoice _ f i hr hv := queuesFit_handed.onVoice f i hr hv
  save := queuesFit_handed.save
  post := queuesFit_handed.post
  asleep _ _ hv := hv
  lose _ hv := hv
  respond _ _ _ hv := hv
  frame c _ hexec hv := queuesFit_handed.frame c hexec hv
  consoleRead _ addr hv := queuesFit_handed.consoleRead addr hv
  consoleWrite _ addr value hv := queuesFit_handed.consoleWrite addr value hv
  fetchWord _ hr hv := queuesFit_handed.fetchWord hr hv
  fetchComplete _ hr hv := queuesFit_handed.fetchComplete hr hv
  checkLoad _ hr hv := queuesFit_handed.checkLoad hr hv
  outputSample _ hr hv := queuesFit_handed.withSound _ hr hv
  tick _ _ hv := hv
  drainOne _ hv := drainOne_queuesFit hv
  flagAccess _ hv := flagAccess_queuesFit hv
  sequencerAccess _ hv := queuesFit_handed.sequencerAccess hv
  crystalSecond _ hv := queuesFit_handed.crystalSecond hv
  hundredth u hv := by rw [hundredth_eq]; exact hv
  setVcc _ _ hv := hv
  changeSupply _ c _ hv := changeSupply_queuesFit c hv
  assertReset _ hv := assertReset_queuesFit hv
  releaseReset _ hv := releaseReset_queuesFit hv
  setCell u level hv := by rw [setCell_eq]; exact hv
  changeCoinLow u hv := by rw [changeCoinLow_eq]; exact hv

/-- Settles O6: a post, a posted write, a rumble request and a flag operation each join only where a place is free. -/
theorem stepKeepsQueuesWithinPlaces : Obligations.StepKeepsQueuesWithinPlaces :=
  fun _ _ hs hstep => (queuesFit_kept.step ⟨hs, trivial⟩ hstep).1

end Sys2Proof.Machine
end

section
/-! PROOFS. Every step keeps the drive strength within the Drive Ceiling, and Heavy Load clear under the Commit Guard (R97, R98,
R100). -/

namespace Sys2Proof.Machine

/-- What holds of the Drive within a step too: the Guard Strength is below the Heavy Threshold, and the motor is off while the
core does not run (R100, R102). -/
structure Ef24.DriveReady (u : Ef24) : Prop where
  limits : u.rumble.guardStrength < u.rumble.heavyThreshold
  held : u.coreRunning = false → u.rumble.motor.strength = 0

/-- While the core runs only the limits count. -/
theorem driveReady_running {u : Ef24} (hr : u.coreRunning = true)
    (hlimits : u.rumble.guardStrength < u.rumble.heavyThreshold) : u.DriveReady where
  limits := hlimits
  held := fun hheld => by rw [hr] at hheld; cases hheld

/-- The drive is as ready as before where the Drive and the chip state are as before. -/
theorem Ef24.DriveReady.of_eq {u v : Ef24} (hu : u.DriveReady) (hrumble : v.rumble = u.rumble) (hchip : v.chip = u.chip) :
    v.DriveReady where
  limits := by rw [hrumble]; exact hu.limits
  held := by rw [hrumble, coreRunning_of_chip hchip]; exact hu.held

/-- The core reset values of the Drive are ready in every chip state (R94, R97). -/
theorem driveReady_of_reset {v : Ef24} (hrumble : v.rumble = Rumble.reset) : v.DriveReady where
  limits := by rw [hrumble]; decide
  held := by rw [hrumble]; exact fun _ => rfl

/-- The shared operations of the blocks keep the Drive ready: they move it only while the core runs. -/
theorem driveReady_handed : Handed Ef24.DriveReady where
  same _ _ hsame hu := hu.of_eq hsame.rumble hsame.chip
  post _ _ _ _ hu := hu.of_eq rfl rfl
  events _ _ _ hu := hu.of_eq rfl rfl
  rumble u r hr hmoves hu := driveReady_running hr (by
    change r.guardStrength < r.heavyThreshold
    rw [hmoves.guardStrength, hmoves.heavyThreshold]
    exact hu.limits)
  limits _ _ _ hlt hu := ⟨hlt, hu.held⟩
  flag _ _ _ _ hu := hu.of_eq rfl rfl
  ask _ _ _ _ hu := hu.of_eq rfl rfl
  posted _ _ _ hu := hu.of_eq rfl rfl
  save _ _ _ _ hu := hu.of_eq rfl rfl
  state u c n _ hc hu := driveReady_running (by obtain rfl | rfl := hc <;> rfl) hu.limits

/-! ## A conclusion brings the strength under the ceiling -/

theorem conclude_driveReady {u : Ef24} (hu : u.DriveReady) : u.conclude.DriveReady where
  limits := by rw [conclude_eq]; exact hu.limits
  held := fun hheld => by
    rw [conclude_coreRunning] at hheld
    rw [conclude_rumble_held hheld]
    exact hu.held hheld

theorem conclude_driveLimited {u : Ef24} (hu : u.DriveReady) : u.conclude.driveLimited := by
  obtain ⟨hlimits, hheld⟩ := conclude_driveReady hu
  refine ⟨fun hr => ?_, hheld, hlimits, conclude_heavyLoad u⟩
  rw [conclude_coreRunning] at hr
  rw [conclude_ceiling]
  exact conclude_strength_le hr

theorem driveReady_of_limited {u : Ef24} (hu : u.driveLimited) : u.DriveReady := by
  obtain ⟨-, hheld, hlimits, -⟩ := hu
  exact ⟨hlimits, hheld⟩

/-! ## The supply and the reset -/

theorem flagAccess_rumble (u : Ef24) : u.flagAccess.rumble = u.rumble := by rw [flagAccess_eq]

theorem endReset_driveReady {u : Ef24} (hlimits : u.rumble.guardStrength < u.rumble.heavyThreshold) :
    u.endReset.DriveReady := by
  rw [endReset_eq]
  exact driveReady_running rfl hlimits

theorem reachGood_driveReady (u : Ef24) : u.reachGood.DriveReady := by
  unfold Ef24.reachGood
  dsimp only
  generalize (if (u.setSupply .good).power.retained then u.setSupply .good else (u.setSupply .good).backupReset) = w
  split
  · exact driveReady_of_reset rfl
  · exact endReset_driveReady (u := w.holdCore) (by decide : Rumble.reset.guardStrength < Rumble.reset.heavyThreshold)

theorem halt_driveReady {u : Ef24} (hu : u.DriveReady) : u.halt.DriveReady := by
  unfold Ef24.halt
  dsimp only
  split
  · exact hu.of_eq rfl rfl
  · exact ⟨hu.limits, fun _ => rfl⟩

theorem noteSupply_driveReady {u : Ef24} (hu : u.DriveReady) : u.noteSupply.DriveReady :=
  hu.of_eq (noteSupply_rumble u) (noteSupply_chip u)

theorem changeSupply_driveReady {u : Ef24} (c : SupplyChange) (hu : u.DriveReady) : (u.changeSupply c).DriveReady := by
  cases c with
  | absentToRising => exact hu.of_eq rfl rfl
  | risingToAbsent => exact hu.of_eq rfl rfl
  | risingToGood => exact reachGood_driveReady u
  | goodToLow => exact noteSupply_driveReady (hu.of_eq (v := u.setSupply .low) rfl rfl)
  | lowToGood => exact noteSupply_driveReady (hu.of_eq (v := u.setSupply .good) rfl rfl)
  | toFailing => exact halt_driveReady (hu.of_eq (v := u.setSupply .failing) rfl rfl)
  | failingToAbsent => exact driveReady_of_reset rfl
  | failingToGood => exact reachGood_driveReady u

theorem assertReset_driveReady {u : Ef24} (hu : u.DriveReady) : u.assertReset.DriveReady := by
  unfold Ef24.assertReset
  dsimp only
  split
  · exact hu.of_eq rfl rfl
  · exact driveReady_of_reset rfl
  · exact driveReady_of_reset rfl
  · exact driveReady_of_reset rfl
  · exact driveReady_of_reset rfl

theorem releaseReset_driveReady {u : Ef24} (hu : u.DriveReady) : u.releaseReset.DriveReady := by
  unfold Ef24.releaseReset
  dsimp only
  split
  · exact endReset_driveReady (u := ({ u with crstLow := false } : Ef24).drainAll) hu.limits
  · exact hu.of_eq rfl rfl

/-! ## The invariant -/

/-- Everything a command can do keeps the Drive ready, and a conclusion then limits it. -/
theorem driveReady_kept : Kept Ef24.DriveReady Ef24.driveLimited where
  conclude _ hv := conclude_driveReady hv
  concluded _ hv := conclude_driveLimited hv
  motor _ _ _ hr hv := driveReady_running hr hv.limits
  finish _ hr hv := driveReady_handed.withRumble _ hr (Rumble.finish_moves _ _) hv
  onVoice _ f i hr hv := driveReady_handed.onVoice f i hr hv
  save := driveReady_handed.save
  post := driveReady_handed.post
  asleep _ _ hv := driveReady_running rfl hv.limits
  lose _ hv := hv.of_eq rfl rfl
  respond _ _ _ hv := hv.of_eq rfl rfl
  frame c _ hexec hv := driveReady_handed.frame c hexec hv
  consoleRead _ addr hv := driveReady_handed.consoleRead addr hv
  consoleWrite _ addr value hv := driveReady_handed.consoleWrite addr value hv
  fetchWord _ hr hv := driveReady_handed.fetchWord hr hv
  fetchComplete _ hr hv := driveReady_handed.fetchComplete hr hv
  checkLoad _ hr hv := driveReady_handed.checkLoad hr hv
  outputSample _ hr hv := driveReady_handed.withSound _ hr hv
  tick _ hr hv := driveReady_running hr hv.limits
  drainOne u hv := by rw [drainOne_eq]; exact hv.of_eq rfl rfl
  flagAccess u hv := by rw [flagAccess_eq]; exact hv.of_eq rfl rfl
  sequencerAccess _ hv := driveReady_handed.sequencerAccess hv
  crystalSecond _ hv := driveReady_handed.crystalSecond hv
  hundredth u hv := by rw [hundredth_eq]; exact hv.of_eq rfl rfl
  setVcc _ _ hv := hv.of_eq rfl rfl
  changeSupply _ c _ hv := changeSupply_driveReady c hv
  assertReset _ hv := assertReset_driveReady hv
  releaseReset _ hv := releaseReset_driveReady hv
  setCell u level hv := by rw [setCell_eq]; exact hv.of_eq rfl rfl
  changeCoinLow u hv := by rw [changeCoinLow_eq]; exact hv.of_eq rfl rfl

/-- Under the Commit Guard the Drive Ceiling is at most the Guard Strength (R97). -/
theorem ceiling_le_guardStrength {u : Ef24} (hguard : u.save.guard = true) : u.ceiling ≤ u.rumble.guardStrength := by
  unfold Ef24.ceiling
  split
  · exact Nat.min_le_right _ _
  · exact Nat.zero_le _

/-- Settles O7: a conclusion limits the strength; under the Guard it is then below the Heavy Threshold. -/
theorem stepKeepsDriveWithinCeiling : Obligations.StepKeepsDriveWithinCeiling := by
  refine ⟨fun s t hs hstep => (driveReady_kept.step ⟨driveReady_of_limited hs, hs⟩ hstep).2, ?_⟩
  intro u hu hr hguard
  obtain ⟨hceiling, -, hlimits, -⟩ := hu
  have hstrength : u.rumble.motor.strength < u.rumble.heavyThreshold :=
    calc u.rumble.motor.strength ≤ u.ceiling := hceiling hr
      _ ≤ u.rumble.guardStrength := ceiling_le_guardStrength hguard
      _ < u.rumble.heavyThreshold := hlimits
  exact decide_eq_false (Nat.not_le.mpr hstrength)

end Sys2Proof.Machine
end

section
/-! PROOFS. Every step keeps the chip state in agreement with the supply and /CRST (R123, R173, R176 to R179). -/

namespace Sys2Proof.Machine

/-- What holds of the chip state within a step too: it follows the supply and /CRST. -/
structure Ef24.ChipFits (u : Ef24) : Prop where
  running : u.coreRunning = true → u.power.supply.powers = true ∧ u.crstLow = false
  halted : u.chip = some .halted → u.power.supply = .failing ∧ u.crstLow = false
  held : u.chip = none → u.crstLow = true ∨ u.power.supply.powers = false

/-- The chip state fits where it, the supply and /CRST are as before. -/
theorem Ef24.ChipFits.of_eq {u v : Ef24} (hu : u.ChipFits) (hchip : v.chip = u.chip)
    (hsupply : v.power.supply = u.power.supply) (hcrst : v.crstLow = u.crstLow) : v.ChipFits where
  running := by rw [coreRunning_of_chip hchip, hsupply, hcrst]; exact hu.running
  halted := by rw [hchip, hsupply, hcrst]; exact hu.halted
  held := by rw [hchip, hsupply, hcrst]; exact hu.held

/-- One running state is followed by another while the supply and /CRST are as before. -/
theorem chipFits_of_running {u v : Ef24} (hr : u.coreRunning = true) (hv : v.coreRunning = true)
    (hsupply : v.power.supply = u.power.supply) (hcrst : v.crstLow = u.crstLow) (hu : u.ChipFits) : v.ChipFits where
  running := fun _ => by rw [hsupply, hcrst]; exact hu.running hr
  halted := fun hhalted => by simp [Ef24.coreRunning, hhalted] at hv
  held := fun hheld => by simp [Ef24.coreRunning, hheld] at hv

/-- A core held in reset fits while /CRST is low or the supply feeds nothing. -/
theorem chipFits_of_held {v : Ef24} (hchip : v.chip = none) (hheld : v.crstLow = true ∨ v.power.supply.powers = false) :
    v.ChipFits where
  running := fun hr => by simp [Ef24.coreRunning, hchip] at hr
  halted := fun hhalted => by rw [hchip] at hhalted; cases hhalted
  held := fun _ => hheld

/-- A core that has come out of reset fits with the supply good or low and /CRST high. -/
theorem chipFits_of_run {v : Ef24} (hchip : v.chip = some .run) (hsupply : v.power.supply.powers = true)
    (hcrst : v.crstLow = false) : v.ChipFits where
  running := fun _ => ⟨hsupply, hcrst⟩
  halted := fun hhalted => by rw [hchip] at hhalted; cases hhalted
  held := fun hheld => by rw [hchip] at hheld; cases hheld

/-- A HALTED chip fits with the supply failing and /CRST high. -/
theorem chipFits_of_halted {v : Ef24} (hchip : v.chip = some .halted) (hsupply : v.power.supply = .failing)
    (hcrst : v.crstLow = false) : v.ChipFits where
  running := fun hr => by rw [Ef24.coreRunning, hchip] at hr; cases hr
  halted := fun _ => ⟨hsupply, hcrst⟩
  held := fun hheld => by rw [hchip] at hheld; cases hheld

/-- While the supply feeds nothing, a core that is not HALTED is held in reset. -/
theorem chipFits_held {u : Ef24} (hu : u.ChipFits) (hsupply : u.power.supply.powers = false)
    (hfailing : u.power.supply ≠ .failing) : u.chip = none := by
  cases hchip : u.chip with
  | none => rfl
  | some c =>
    have hrunning : u.coreRunning = false := by
      cases hr : u.coreRunning with
      | false => rfl
      | true => rw [(hu.running hr).1] at hsupply; cases hsupply
    cases c with
    | halted => exact absurd (hu.halted hchip).1 hfailing
    | run => rw [Ef24.coreRunning, hchip] at hrunning; cases hrunning
    | enteringSleep => rw [Ef24.coreRunning, hchip] at hrunning; cases hrunning
    | asleep => rw [Ef24.coreRunning, hchip] at hrunning; cases hrunning

/-! ## Supply changes (R174 to R178) -/

theorem endReset_chip (u : Ef24) : u.endReset.chip = some .run := by rw [endReset_eq]
theorem endReset_power (u : Ef24) : u.endReset.power = u.power := by rw [endReset_eq]
theorem endReset_crstLow (u : Ef24) : u.endReset.crstLow = u.crstLow := by rw [endReset_eq]

theorem reachGood_chipFits (u : Ef24) : u.reachGood.ChipFits := by
  unfold Ef24.reachGood
  dsimp only
  have hgood : (if (u.setSupply .good).power.retained then u.setSupply .good
      else (u.setSupply .good).backupReset).power.supply = .good := by split <;> rfl
  generalize (if (u.setSupply .good).power.retained then u.setSupply .good else (u.setSupply .good).backupReset) = w at *
  split
  case isTrue hlow => exact chipFits_of_held rfl (.inl hlow)
  case isFalse hhigh =>
    refine chipFits_of_run (endReset_chip _) ?_ ?_
    · rw [endReset_power, holdCore_power, hgood]; rfl
    · rw [endReset_crstLow, holdCore_crstLow]; exact Bool.eq_false_iff.mpr hhigh

/-- A chip with a chip state has /CRST high. -/
theorem Ef24.ChipFits.crst_high {u : Ef24} {c : ChipState} (hu : u.ChipFits) (hchip : u.chip = some c) :
    u.crstLow = false := by
  cases c with
  | halted => exact (hu.halted hchip).2
  | run => exact (hu.running (by rw [Ef24.coreRunning, hchip])).2
  | enteringSleep => exact (hu.running (by rw [Ef24.coreRunning, hchip])).2
  | asleep => exact (hu.running (by rw [Ef24.coreRunning, hchip])).2

theorem halt_chipFits {u : Ef24} (hu : u.ChipFits) : (u.setSupply .failing).halt.ChipFits := by
  unfold Ef24.halt
  dsimp only
  split
  case h_1 hchip => exact chipFits_of_held hchip (.inr rfl)
  case h_2 c hchip =>
    exact chipFits_of_halted rfl rfl (hu.crst_high hchip)

/-- Between GOOD and LOW the chip state goes on. -/
theorem setSupply_chipFits {u : Ef24} {x : Supply} (hx : x.powers = true) (hu : u.ChipFits)
    (hpowers : u.power.supply.powers = true) : (u.setSupply x).ChipFits where
  running := fun hr => ⟨hx, (hu.running hr).2⟩
  halted := fun hhalted => by
    have hfailing := (hu.halted hhalted).1
    rw [hfailing] at hpowers
    cases hpowers
  held := fun hheld => by
    obtain hlow | hoff := hu.held hheld
    · exact .inl hlow
    · rw [hoff] at hpowers
      cases hpowers

theorem noteSupply_chipFits {u : Ef24} (hu : u.ChipFits) : u.noteSupply.ChipFits :=
  hu.of_eq (noteSupply_chip u) (by rw [noteSupply_power]) (noteSupply_crstLow u)

theorem changeSupply_chipFits {u : Ef24} {c : SupplyChange} (hc : u.power.crosses c = true) (hu : u.ChipFits) :
    (u.changeSupply c).ChipFits := by
  cases c with
  | absentToRising =>
    have hsupply : u.power.supply = .absent := by simp [Power.crosses] at hc; exact hc.1
    have hchip : u.chip = none := chipFits_held hu (by rw [hsupply]; rfl) (by rw [hsupply]; decide)
    exact chipFits_of_held hchip (.inr rfl)
  | risingToAbsent =>
    have hsupply : u.power.supply = .rising := by simp [Power.crosses] at hc; exact hc.1
    have hchip : u.chip = none := chipFits_held hu (by rw [hsupply]; rfl) (by rw [hsupply]; decide)
    exact chipFits_of_held hchip (.inr rfl)
  | risingToGood => exact reachGood_chipFits u
  | goodToLow =>
    have hsupply : u.power.supply = .good := by simp [Power.crosses] at hc; exact hc.1
    exact noteSupply_chipFits (setSupply_chipFits rfl hu (by rw [hsupply]; rfl))
  | lowToGood =>
    have hsupply : u.power.supply = .low := by simp [Power.crosses] at hc; exact hc.1
    exact noteSupply_chipFits (setSupply_chipFits rfl hu (by rw [hsupply]; rfl))
  | toFailing => exact halt_chipFits hu
  | failingToAbsent => exact chipFits_of_held rfl (.inr rfl)
  | failingToGood => exact reachGood_chipFits u

/-! ## /CRST (R178, R179) -/

theorem assertReset_chipFits (u : Ef24) : u.assertReset.ChipFits := by
  unfold Ef24.assertReset
  dsimp only
  split
  case h_1 hchip => exact chipFits_of_held hchip (.inl rfl)
  all_goals exact chipFits_of_held rfl (.inl rfl)

theorem releaseReset_chipFits {u : Ef24} (hu : u.ChipFits) : u.releaseReset.ChipFits := by
  unfold Ef24.releaseReset
  dsimp only
  split
  case isTrue hends =>
    rw [Bool.and_eq_true] at hends
    refine chipFits_of_run (endReset_chip _) ?_ (endReset_crstLow _)
    rw [endReset_power]
    exact hends.2
  case isFalse hstays =>
    refine ⟨fun hr => ⟨(hu.running hr).1, rfl⟩, fun hhalted => ⟨(hu.halted hhalted).1, rfl⟩, fun hheld => .inr ?_⟩
    have hnone : u.chip = none := hheld
    simpa [hnone] using hstays

/-! ## Sleep and wake -/

theorem sleep_chipFits {u : Ef24} (hr : u.coreRunning = true) (hu : u.ChipFits) : u.sleep.ChipFits := by
  have hslept : u.sleep.coreRunning = true := by
    unfold Ef24.sleep
    split
    · exact hr
    · have hchip : u.enterSleep.chip = some .enteringSleep := by unfold Ef24.enterSleep; rw [reactToSleep_eq]
      unfold Ef24.coreRunning
      rw [respond_chip, hchip]
  refine chipFits_of_running hr hslept ?_ ?_ hu <;> rw [sleep_eq]

theorem wake_chipFits {u : Ef24} (hr : u.coreRunning = true) (hu : u.ChipFits) : u.wake.ChipFits := by
  have hwoken : u.wake.coreRunning = true := by
    unfold Ef24.wake
    split
    · unfold Ef24.coreRunning
      rw [respond_chip, deliverAll_chip]
    · split <;> exact hr
  refine chipFits_of_running hr hwoken ?_ ?_ hu <;> rw [wake_eq]

/-- Every command but SLEEP and WAKE leaves the chip state. -/
theorem frameBody_chip {c : Command} (u : Ef24) (hsleep : c ≠ .sleep) (hwake : c ≠ .wake) :
    (frameBody c u).chip = u.chip := by
  cases c with
  | sleep => exact absurd rfl hsleep
  | wake => exact absurd rfl hwake
  | tableRead => dsimp only [frameBody]; rw [tableRead_eq]
  | loadTable => dsimp only [frameBody]; rw [loadTable_eq]
  | loadAbort => dsimp only [frameBody]; rw [loadAbort_eq]
  | actionRun => dsimp only [frameBody]; rw [actionRun_eq]
  | cuePlay => dsimp only [frameBody]; rw [cuePlay_eq]
  | voiceStop => dsimp only [frameBody]; rw [voiceStop_eq]
  | soundStopAll => dsimp only [frameBody]; rw [soundStopAll_eq]
  | soundVolume => dsimp only [frameBody]; rw [soundVolume_eq]
  | rumbleStart => dsimp only [frameBody]; rw [rumbleStart_eq]
  | rumbleCut => dsimp only [frameBody]; rw [rumbleCut_eq]
  | rumbleEnable => dsimp only [frameBody]; rw [rumbleEnable_eq]
  | rumbleLimits => dsimp only [frameBody]; rw [rumbleLimits_eq]
  | saveFormat => dsimp only [frameBody]; rw [saveFormat_eq]
  | slotSeed => dsimp only [frameBody]; rw [slotSeed_eq]
  | slotCommit => dsimp only [frameBody]; rw [slotCommit_eq]
  | slotDiscard => dsimp only [frameBody]; rw [slotDiscard_eq]
  | slotVerify => dsimp only [frameBody]; rw [slotVerify_eq]
  | slotInfo => dsimp only [frameBody]; rw [slotInfo_eq]
  | flagTest => dsimp only [frameBody]; rw [singleFlag_eq]
  | flagSet => dsimp only [frameBody]; rw [singleFlag_eq]
  | flagClear => dsimp only [frameBody]; rw [singleFlag_eq]
  | flagToggle => dsimp only [frameBody]; rw [singleFlag_eq]
  | flagScan => dsimp only [frameBody]; rw [flagScan_eq]
  | flagClearRange => dsimp only [frameBody]; rw [flagClearRange_eq]
  | clockSet => dsimp only [frameBody]; rw [clockSet_eq]
  | dayStartSet => dsimp only [frameBody]; rw [dayStartSet_eq]
  | advanceCapSet => dsimp only [frameBody]; rw [advanceCapSet_eq]
  | eventTake => dsimp only [frameBody]; rw [eventTake_eq]
  | eventMaskSet => dsimp only [frameBody]; rw [eventMaskSet_eq]
  | _ => rfl

theorem frameBody_chipFits {c : Command} {u : Ef24} (hexec : u.executes c = true) (hu : u.ChipFits) :
    (frameBody c u).ChipFits := by
  obtain ⟨hr, -⟩ := executes_ready hexec
  by_cases hsleep : c = .sleep
  · subst hsleep
    exact sleep_chipFits hr hu
  by_cases hwake : c = .wake
  · subst hwake
    exact wake_chipFits hr hu
  exact hu.of_eq (frameBody_chip u hsleep hwake) (by rw [frameBody_power]) (frameBody_crstLow c u)

/-! ## The invariant -/

/-- A closed gate has no access in progress at a conclusion (R123, R176). -/
theorem conclude_gateClosed (v : Ef24) : v.conclude.gateOpen = false → v.conclude.save.port = none := by
  rw [conclude_gateOpen]
  exact conclude_port_closed

/-- Everything a command can do keeps the chip state with the supply and /CRST; a conclusion leaves a closed gate idle. -/
theorem chipFits_kept : Kept Ef24.ChipFits (fun v => v.gateOpen = false → v.save.port = none) where
  conclude v hv := hv.of_eq (conclude_chip v) (conclude_supply v) (conclude_crstLow v)
  concluded v _ := conclude_gateClosed v
  motor _ _ _ _ hv := hv.of_eq rfl rfl rfl
  finish v _ hv := hv.of_eq (withRumble_chip v _) (by rw [withRumble_power]) (withRumble_crstLow v _)
  onVoice v f i _ hv := by rw [onVoice_eq]; exact hv.of_eq rfl rfl rfl
  save _ _ _ _ hv := hv.of_eq rfl rfl rfl
  post _ _ _ _ hv := hv.of_eq rfl rfl rfl
  asleep u hsleeps hv := chipFits_of_running (u := u) (by rw [Ef24.coreRunning, hsleeps]) rfl rfl rfl hv
  lose _ hv := hv.of_eq rfl rfl rfl
  respond _ _ _ hv := hv.of_eq rfl rfl rfl
  frame _ _ hexec hv := frameBody_chipFits hexec hv
  consoleRead u addr hv := by rw [consoleRead_eq]; exact hv.of_eq rfl rfl rfl
  consoleWrite u addr value hv := by rw [consoleWrite_eq]; exact hv.of_eq rfl rfl rfl
  fetchWord u _ hv := by rw [fetchWord_eq]; exact hv.of_eq rfl rfl rfl
  fetchComplete u _ hv := by rw [fetchComplete_eq]; exact hv.of_eq rfl rfl rfl
  checkLoad u _ hv := by rw [checkLoad_eq]; exact hv.of_eq rfl rfl rfl
  outputSample u _ hv := by rw [outputSample_eq]; exact hv.of_eq rfl rfl rfl
  tick _ _ hv := hv.of_eq rfl rfl rfl
  drainOne u hv := by rw [drainOne_eq]; exact hv.of_eq rfl rfl rfl
  flagAccess u hv := by rw [flagAccess_eq]; exact hv.of_eq rfl rfl rfl
  sequencerAccess u hv := by rw [sequencerAccess_eq]; exact hv.of_eq rfl rfl rfl
  crystalSecond u hv := by rw [crystalSecond_eq]; exact hv.of_eq rfl rfl rfl
  hundredth u hv := by rw [hundredth_eq]; exact hv.of_eq rfl rfl rfl
  setVcc _ _ hv := hv.of_eq rfl rfl rfl
  changeSupply _ _ hc hv := changeSupply_chipFits hc hv
  assertReset u _ := assertReset_chipFits u
  releaseReset _ hv := releaseReset_chipFits hv
  setCell u level hv := by
    refine hv.of_eq ?_ ?_ ?_
    · rw [setCell_eq]
    · unfold Ef24.setCell; dsimp only; split <;> rfl
    · rw [setCell_eq]
  changeCoinLow u hv := by rw [changeCoinLow_eq]; exact hv.of_eq rfl rfl rfl

/-- Settles O8: the chip state moves only with the supply, /CRST, SLEEP and WAKE; a conclusion grants no access to a closed
gate. -/
theorem stepKeepsChipWithSupply : Obligations.StepKeepsChipWithSupply := by
  intro s t hs hstep
  obtain ⟨hrunning, hhalted, hheld, hport⟩ := hs
  obtain ⟨hfits, hclosed⟩ := chipFits_kept.step (s := s) ⟨⟨hrunning, hhalted, hheld⟩, hport⟩ hstep
  exact ⟨hfits.running, hfits.halted, hfits.held, hclosed⟩

end Sys2Proof.Machine
end

section
/-! PROOFS. Every step keeps the calendar, its high-water instant and its counters consistent (R138). -/

namespace Sys2Proof.Machine

/-- The calendar is the same where it is left alone. -/
theorem consistent_of_eq {c d : Calendar} (hsame : d = c) (hc : c.consistent) : d.consistent := hsame ▸ hc

/-! ## Counting a second (R139 to R142) -/

/-- A reading that is not the last is followed by one, one second later. -/
theorem next_reading {t : DateTime} (hexists : t.exists_ = true) (hlast : t ≠ DateTime.last) :
    t.next.exists_ = true ∧ t.next.instant = t.instant + 1 ∧ t.next.instant ≤ DateTime.last.instant :=
  ⟨next_exists hexists hlast, next_instant hexists, instant_le_last (next_exists hexists hlast)⟩

theorem addDays_consistent {c : Calendar} (n : Nat) (hc : c.consistent) : (c.addDays n).consistent := by
  obtain ⟨h1, h2, h3, h4, -, h6⟩ := hc
  exact ⟨h1, h2, h3, h4, Nat.min_le_left _ _, h6⟩

theorem noteRollover_consistent {u : Ef24} (hu : u.calendar.consistent) : u.noteRollover.calendar.consistent := by
  unfold Ef24.noteRollover
  split
  · exact hu
  · obtain ⟨h1, h2, h3, h4, h5, h6, h7, -, h9⟩ := hu
    exact ⟨h1, h2, h3, h4, h5, h6, h7, Nat.min_le_left _ _, h9⟩

theorem countRollover_consistent {u : Ef24} (hu : u.calendar.consistent) : u.countRollover.calendar.consistent := by
  unfold Ef24.countRollover Ef24.tellRollover
  rw [fireAll_calendar]
  exact noteRollover_consistent (u := u.onCalendar (·.addDays 1)) (addDays_consistent 1 hu)

theorem examineSecond_consistent {u : Ef24} (hu : u.calendar.consistent) : u.examineSecond.calendar.consistent := by
  have hrolled : (if u.calendar.now.isRollover u.calendar.dayStart then u.countRollover else u).calendar.consistent := by
    split
    · exact countRollover_consistent hu
    · exact hu
  unfold Ef24.examineSecond Ef24.tellMinute
  dsimp only
  split
  · rw [fireAll_calendar]
    exact hrolled
  · exact hrolled

theorem secondTrue_consistent {u : Ef24} (hlast : u.calendar.now ≠ DateTime.last) (htrue : u.calendar.behind = false)
    (hu : u.calendar.consistent) : u.secondTrue.calendar.consistent := by
  obtain ⟨h1, -, -, -, h5⟩ := hu
  obtain ⟨hnext, -, hbound⟩ := next_reading h1 hlast
  have hcounted : (u.onCalendar (fun c => { c with now := c.now.next, high := c.now.next.instant })).calendar.consistent :=
    ⟨hnext, fun hbehind : u.calendar.behind = true => absurd (htrue.symm.trans hbehind) Bool.false_ne_true,
      fun _ => rfl, hbound, h5⟩
  unfold Ef24.secondTrue
  dsimp only
  split
  · exact examineSecond_consistent hcounted
  · exact hcounted

theorem secondBehind_consistent {u : Ef24} (hlast : u.calendar.now ≠ DateTime.last) (hbehind : u.calendar.behind = true)
    (hu : u.calendar.consistent) : u.secondBehind.calendar.consistent := by
  obtain ⟨h1, h2, -, h4⟩ := hu
  obtain ⟨hnext, hsucc, -⟩ := next_reading h1 hlast
  unfold Ef24.secondBehind
  dsimp only
  split
  case isTrue hcaught =>
    rw [noteCaughtUp_calendar]
    exact ⟨hnext, fun hstill => absurd hstill Bool.false_ne_true, fun _ => hcaught, h4⟩
  case isFalse hnot =>
    have hbefore : u.calendar.now.instant < u.calendar.high := h2 hbehind
    have hnot' : u.calendar.now.next.instant ≠ u.calendar.high := hnot
    have hstill : u.calendar.now.next.instant < u.calendar.high := by omega
    exact ⟨hnext, fun _ => hstill,
      fun hfalse : u.calendar.behind = false => absurd (hfalse.symm.trans hbehind) Bool.false_ne_true, h4⟩

theorem crystalSecond_consistent {u : Ef24} (hu : u.calendar.consistent) : u.crystalSecond.calendar.consistent := by
  unfold Ef24.crystalSecond Ef24.second
  split
  · split
    · exact hu
    case isFalse hlast =>
      split
      case isTrue hbehind => exact secondBehind_consistent hlast hbehind hu
      case isFalse htrue => exact secondTrue_consistent hlast (Bool.eq_false_iff.mpr htrue) hu
  · exact hu

/-! ## The Play Timer (R152) -/

theorem addHundredth_consistent {c : Calendar} (hc : c.consistent) : c.addHundredth.consistent := by
  obtain ⟨h1, h2, h3, h4, h5, h6, h7, h8, h9, h10⟩ := hc
  unfold Calendar.addHundredth
  split
  · exact ⟨h1, h2, h3, h4, h5, h6, h7, h8, h9, by dsimp only; omega⟩
  split
  · exact ⟨h1, h2, h3, h4, h5, h6, h7, h8, by dsimp only; omega, Nat.zero_le _⟩
  · exact ⟨h1, h2, h3, h4, h5, h6, h7, h8, h9, h10⟩

theorem hundredth_consistent {u : Ef24} (hu : u.calendar.consistent) : u.hundredth.calendar.consistent := by
  unfold Ef24.hundredth
  split
  · exact addHundredth_consistent hu
  · exact hu

/-! ## The calendar's commands (R145 to R153) -/

theorem setFirst_consistent {u : Ef24} {t : DateTime} (ht : t.exists_ = true) (hu : u.calendar.consistent) :
    (u.setFirst t).calendar.consistent := by
  obtain ⟨-, -, -, -, h5⟩ := hu
  exact ⟨ht, fun hbehind => absurd hbehind Bool.false_ne_true, fun _ => rfl, instant_le_last ht, h5⟩

theorem setForward_consistent {u : Ef24} {t : DateTime} (ht : t.exists_ = true) (hu : u.calendar.consistent) :
    (u.setForward t).calendar.consistent := by
  obtain ⟨-, -, -, -, h5⟩ := hu
  have hset : ((u.onCalendar (fun c => { c with now := t, high := t.instant, behind := false })).noteSetCaughtUp
      u.calendar.behind).calendar.consistent := by
    rw [noteSetCaughtUp_eq]
    exact ⟨ht, fun hbehind => absurd hbehind Bool.false_ne_true, fun _ => rfl, instant_le_last ht, h5⟩
  unfold Ef24.setForward Ef24.applyDays Ef24.tellRollover
  split
  · rw [fireAll_calendar]
    exact addDays_consistent _ hset
  · exact hset

theorem setBackward_consistent {u : Ef24} {t : DateTime} (ht : t.exists_ = true)
    (hbefore : t.instant < u.calendar.high) (hu : u.calendar.consistent) : (u.setBackward t).calendar.consistent := by
  obtain ⟨-, -, -, h4⟩ := hu
  exact ⟨ht, fun _ => hbefore, fun hfalse => absurd hfalse.symm Bool.false_ne_true, h4⟩

theorem clockSet_consistent {u : Ef24} (hu : u.calendar.consistent) : u.clockSet.calendar.consistent := by
  unfold Ef24.clockSet
  dsimp only
  split
  · exact hu
  case isFalse hexists =>
    have ht : u.clockArgs.exists_ = true := by simpa using hexists
    split
    · exact setFirst_consistent ht hu
    split
    · exact setForward_consistent ht hu
    case isFalse hbefore => exact setBackward_consistent ht (Nat.not_le.mp hbefore) hu

theorem dayStartSet_consistent {u : Ef24} (hu : u.calendar.consistent) : u.dayStartSet.calendar.consistent := by
  unfold Ef24.dayStartSet
  split
  · exact hu
  case isFalse hhour =>
    obtain ⟨h1, h2, h3, h4, h5, -, h7⟩ := hu
    exact ⟨h1, h2, h3, h4, h5, Nat.not_lt.mp hhour, h7⟩

theorem advanceCapSet_consistent {u : Ef24} (hu : u.calendar.consistent) : u.advanceCapSet.calendar.consistent := by
  unfold Ef24.advanceCapSet
  split
  · exact hu
  case isFalse hcap =>
    obtain ⟨h1, h2, h3, h4, h5, h6, -, h8⟩ := hu
    exact ⟨h1, h2, h3, h4, h5, h6, by change 1 ≤ u.arg 0 ∧ u.arg 0 ≤ 255; omega, h8⟩

theorem timerClear_consistent {u : Ef24} (hu : u.calendar.consistent) : u.timerClear.calendar.consistent := by
  obtain ⟨h1, h2, h3, h4, h5, h6, h7, h8, -, -⟩ := hu
  exact ⟨h1, h2, h3, h4, h5, h6, h7, h8, Nat.zero_le _, Nat.zero_le _⟩

theorem frameBody_consistent (c : Command) {u : Ef24} (hu : u.calendar.consistent) :
    (frameBody c u).calendar.consistent := by
  cases c with
  | clockSet => exact clockSet_consistent hu
  | dayStartSet => exact dayStartSet_consistent hu
  | advanceCapSet => exact advanceCapSet_consistent hu
  | timerClear => exact timerClear_consistent hu
  | tableRead => dsimp only [frameBody]; rw [tableRead_eq]; exact hu
  | loadTable => dsimp only [frameBody]; rw [loadTable_eq]; exact hu
  | loadAbort => dsimp only [frameBody]; rw [loadAbort_eq]; exact hu
  | actionRun => dsimp only [frameBody]; rw [actionRun_eq]; exact hu
  | cuePlay => dsimp only [frameBody]; rw [cuePlay_eq]; exact hu
  | voiceStop => dsimp only [frameBody]; rw [voiceStop_eq]; exact hu
  | soundStopAll => dsimp only [frameBody]; rw [soundStopAll_eq]; exact hu
  | soundVolume => dsimp only [frameBody]; rw [soundVolume_eq]; exact hu
  | rumbleStart => dsimp only [frameBody]; rw [rumbleStart_eq]; exact hu
  | rumbleCut => dsimp only [frameBody]; rw [rumbleCut_eq]; exact hu
  | rumbleEnable => dsimp only [frameBody]; rw [rumbleEnable_eq]; exact hu
  | rumbleLimits => dsimp only [frameBody]; rw [rumbleLimits_eq]; exact hu
  | saveFormat => dsimp only [frameBody]; rw [saveFormat_eq]; exact hu
  | slotSeed => dsimp only [frameBody]; rw [slotSeed_eq]; exact hu
  | slotCommit => dsimp only [frameBody]; rw [slotCommit_eq]; exact hu
  | slotDiscard => dsimp only [frameBody]; rw [slotDiscard_eq]; exact hu
  | slotVerify => dsimp only [frameBody]; rw [slotVerify_eq]; exact hu
  | slotInfo => dsimp only [frameBody]; rw [slotInfo_eq]; exact hu
  | flagTest => dsimp only [frameBody]; rw [singleFlag_eq]; exact hu
  | flagSet => dsimp only [frameBody]; rw [singleFlag_eq]; exact hu
  | flagClear => dsimp only [frameBody]; rw [singleFlag_eq]; exact hu
  | flagToggle => dsimp only [frameBody]; rw [singleFlag_eq]; exact hu
  | flagScan => dsimp only [frameBody]; rw [flagScan_eq]; exact hu
  | flagClearRange => dsimp only [frameBody]; rw [flagClearRange_eq]; exact hu
  | eventTake => dsimp only [frameBody]; rw [eventTake_eq]; exact hu
  | eventMaskSet => dsimp only [frameBody]; rw [eventMaskSet_eq]; exact hu
  | sleep => dsimp only [frameBody]; rw [sleep_eq]; exact hu
  | wake => dsimp only [frameBody]; rw [wake_eq]; exact hu
  | _ => exact hu

/-! ## The supply, the reset, the coin cell -/

theorem calendarReset_consistent : Calendar.reset.consistent := by
  unfold Calendar.consistent
  decide

theorem endReset_consistent {u : Ef24} (hu : u.calendar.consistent) : u.endReset.calendar.consistent := by
  obtain ⟨h1, h2, h3, h4, h5, h6, h7, -, h9⟩ := hu
  rw [endReset_eq]
  exact ⟨h1, h2, h3, h4, h5, h6, h7, Nat.zero_le _, h9⟩

theorem reachGood_consistent {u : Ef24} (hu : u.calendar.consistent) : u.reachGood.calendar.consistent := by
  have hgood : (if (u.setSupply .good).power.retained then u.setSupply .good
      else (u.setSupply .good).backupReset).calendar.consistent := by
    split
    · exact hu
    · exact calendarReset_consistent
  unfold Ef24.reachGood
  dsimp only
  generalize (if (u.setSupply .good).power.retained then u.setSupply .good else (u.setSupply .good).backupReset) = w at *
  split
  · exact hgood
  · exact endReset_consistent (u := w.holdCore) hgood

theorem changeSupply_consistent {u : Ef24} (c : SupplyChange) (hu : u.calendar.consistent) :
    (u.changeSupply c).calendar.consistent := by
  cases c with
  | absentToRising => exact hu
  | risingToAbsent => exact hu
  | risingToGood => exact reachGood_consistent hu
  | goodToLow => exact consistent_of_eq (noteSupply_calendar _) hu
  | lowToGood => exact consistent_of_eq (noteSupply_calendar _) hu
  | toFailing => exact consistent_of_eq (by unfold Ef24.changeSupply; dsimp only; rw [halt_eq]; rfl) hu
  | failingToAbsent => exact hu
  | failingToGood => exact reachGood_consistent hu

theorem assertReset_consistent {u : Ef24} (hu : u.calendar.consistent) : u.assertReset.calendar.consistent := by
  unfold Ef24.assertReset
  dsimp only
  split <;> exact hu

theorem releaseReset_consistent {u : Ef24} (hu : u.calendar.consistent) : u.releaseReset.calendar.consistent := by
  unfold Ef24.releaseReset
  dsimp only
  split
  · exact endReset_consistent (u := ({ u with crstLow := false } : Ef24).drainAll) hu
  · exact hu

theorem setCell_consistent {u : Ef24} (level : Option Nat) (hu : u.calendar.consistent) :
    (u.setCell level).calendar.consistent := by
  unfold Ef24.setCell
  dsimp only
  split
  · exact calendarReset_consistent
  · exact hu

/-! ## The invariant -/

/-- Everything a command can do keeps the calendar consistent. -/
theorem consistent_kept : Kept (fun u => u.calendar.consistent) (fun _ => True) where
  conclude v hv := consistent_of_eq (conclude_calendar v) hv
  concluded _ _ := trivial
  motor _ _ _ _ hv := hv
  finish v _ hv := consistent_of_eq (withRumble_calendar v _) hv
  onVoice v f i _ hv := by rw [onVoice_eq]; exact hv
  save _ _ _ _ hv := hv
  post _ _ _ _ hv := hv
  asleep _ _ hv := hv
  lose _ hv := hv
  respond _ _ _ hv := hv
  frame c _ _ hv := frameBody_consistent c hv
  consoleRead u addr hv := by rw [consoleRead_eq]; exact hv
  consoleWrite u addr value hv := by rw [consoleWrite_eq]; exact hv
  fetchWord u _ hv := by rw [fetchWord_eq]; exact hv
  fetchComplete u _ hv := by rw [fetchComplete_eq]; exact hv
  checkLoad u _ hv := by rw [checkLoad_eq]; exact hv
  outputSample u _ hv := by rw [outputSample_eq]; exact hv
  tick _ _ hv := hv
  drainOne u hv := by rw [drainOne_eq]; exact hv
  flagAccess u hv := by rw [flagAccess_eq]; exact hv
  sequencerAccess u hv := by rw [sequencerAccess_eq]; exact hv
  crystalSecond _ hv := crystalSecond_consistent hv
  hundredth _ hv := hundredth_consistent hv
  setVcc _ _ hv := hv
  changeSupply _ c _ hv := changeSupply_consistent c hv
  assertReset _ hv := assertReset_consistent hv
  releaseReset _ hv := releaseReset_consistent hv
  setCell _ level hv := setCell_consistent level hv
  changeCoinLow u hv := by rw [changeCoinLow_eq]; exact hv

/-- Settles O9: a second, a set, and a backup reset each leave the clock state and the high-water instant in agreement. -/
theorem stepKeepsCalendarConsistent : Obligations.StepKeepsCalendarConsistent :=
  fun _ _ hs hstep => (consistent_kept.step ⟨hs, trivial⟩ hstep).1

end Sys2Proof.Machine
end

section
/-! PROOFS. What follows at once, follows once (log 11): a conclusion of a concluded chip changes nothing. -/

namespace Sys2Proof.Machine

/-! ## A second conclusion changes nothing -/

/-- A conclusion leaves every field but four. -/
theorem conclude_fields (u : Ef24) :
    u.conclude = { u with
      rumble := u.conclude.rumble, power := u.conclude.power, romPort := u.conclude.romPort, save := u.conclude.save } := by
  rw [conclude_eq]

/-- The Drive after a conclusion is what follows of the Drive Ceiling. -/
theorem followCeiling_rumble (u : Ef24) : u.followCeiling.rumble = u.conclude.rumble := by
  rw [conclude_rumble, followCeiling_eq]

theorem conclude_conclude_rumble (u : Ef24) : u.conclude.conclude.rumble = u.conclude.rumble := by
  cases hr : u.coreRunning with
  | false => exact conclude_rumble_held (by rw [conclude_coreRunning, hr])
  | true =>
    rw [conclude_rumble_follow (by rw [conclude_coreRunning, hr]), conclude_ceiling, conclude_rumble_follow hr,
      follow_follow]

/-- The hold timers that run are found once. -/
theorem updateHolds_updateHolds (p : Power) : p.updateHolds.updateHolds = p.updateHolds := by
  have hsame : p.updateHolds.holdRuns = p.holdRuns := funext (holdRuns_holds p _)
  unfold Power.updateHolds at *
  rw [hsame]

theorem conclude_conclude_power (u : Ef24) : u.conclude.conclude.power = u.conclude.power := by
  have hload : u.conclude.followCeiling.rumble.heavyLoad = u.conclude.power.heavyLoad := by
    rw [followCeiling_rumble, conclude_conclude_rumble, conclude_heavyLoad]
  rw [conclude_power u.conclude, hload]
  change u.conclude.power.updateHolds = u.conclude.power
  rw [conclude_power u, updateHolds_updateHolds]

/-- Who holds a fetch request depends on the voices and the load alone (R23, R24). -/
theorem holdsRequest_of {u v : Ef24} (hsound : v.sound = u.sound) (hloader : v.loader = u.loader) :
    v.holdsRequest = u.holdsRequest := by
  funext r
  cases r with
  | voice i => simp only [Ef24.holdsRequest, hsound]
  | loader => simp only [Ef24.holdsRequest, hloader]

theorem bufferedWords_of {u v : Ef24} (hsound : v.sound = u.sound) : v.bufferedWords = u.bufferedWords := by
  funext r
  cases r with
  | voice i => simp only [Ef24.bufferedWords, hsound]
  | loader => rfl

theorem betterRequester_of {u v : Ef24} (hsound : v.sound = u.sound) : v.betterRequester = u.betterRequester := by
  funext best r
  unfold Ef24.betterRequester
  rw [bufferedWords_of hsound]

theorem lineAddress_of {u v : Ef24} (hsound : v.sound = u.sound) (hloader : v.loader = u.loader) :
    v.lineAddress = u.lineAddress := by
  funext r
  cases r with
  | voice i => simp only [Ef24.lineAddress, hsound]
  | loader => simp only [Ef24.lineAddress, hloader]

theorem fetchWinner_of {u v : Ef24} (hsound : v.sound = u.sound) (hloader : v.loader = u.loader) :
    v.fetchWinner = u.fetchWinner := by
  unfold Ef24.fetchWinner
  rw [holdsRequest_of hsound hloader, betterRequester_of hsound]

/-- The winner of the Fetch Arbiter holds a request (R26). -/
theorem fetchWinner_holds {u : Ef24} {r : Requester} (hwinner : u.fetchWinner = some r) : u.holdsRequest r = true := by
  have hfold : ∀ (l : List Requester) (best : Option Requester), l.foldl u.betterRequester best = some r →
      r ∈ l ∨ best = some r := by
    intro l
    induction l with
    | nil => exact fun best hbest => .inr hbest
    | cons x xs ih =>
      intro best hbest
      obtain hmem | hstep := ih _ hbest
      · exact .inl (List.mem_cons_of_mem _ hmem)
      · unfold Ef24.betterRequester at hstep
        split at hstep
        · split at hstep
          · cases hstep; exact .inl List.mem_cons_self
          · exact .inr hstep
        · cases hstep; exact .inl List.mem_cons_self
  obtain hmem | hnone := hfold _ _ hwinner
  · exact (List.mem_filter.mp hmem).2
  · cases hnone

/-- The ROM port after the orphan mark: a fetch whose requester holds no request is marked. -/
theorem markOrphan_romPort (u : Ef24) : u.markOrphan.romPort =
    match u.romPort with
    | .fetching f => if u.holdsRequest f.requester then .fetching f else .fetching { f with orphan := true }
    | .idle => .idle
    | .console => .console := by
  unfold Ef24.markOrphan
  cases hport : u.romPort with
  | fetching f => dsimp only; split <;> simp_all
  | idle => exact hport
  | console => exact hport

/-- The ROM port after the arbiter: the winner's fetch begins while the port is IDLE. -/
theorem grantFetch_romPort (u : Ef24) : u.grantFetch.romPort =
    match u.romPort, u.fetchWinner with
    | .idle, some r => .fetching { requester := r, line := u.lineAddress r, words := [], orphan := false }
    | port, _ => port := by
  unfold Ef24.grantFetch
  cases hport : u.romPort <;> cases u.fetchWinner <;> simp_all

/-- The ROM port brought up to date, as a function of what it depends on. -/
theorem updateRomPort_romPort_of {u v : Ef24} (hport : v.romPort = u.romPort) (hchip : v.chip = u.chip)
    (hsound : v.sound = u.sound) (hloader : v.loader = u.loader) : v.updateRomPort.romPort = u.updateRomPort.romPort := by
  have hmark : v.markOrphan.romPort = u.markOrphan.romPort := by
    rw [markOrphan_romPort, markOrphan_romPort, hport, holdsRequest_of hsound hloader]
  have hsound' : v.markOrphan.sound = u.markOrphan.sound := by rw [markOrphan_eq v, markOrphan_eq u]; exact hsound
  have hloader' : v.markOrphan.loader = u.markOrphan.loader := by rw [markOrphan_eq v, markOrphan_eq u]; exact hloader
  unfold Ef24.updateRomPort
  rw [coreRunning_of_chip hchip]
  split
  · rw [grantFetch_romPort, grantFetch_romPort, hmark, fetchWinner_of hsound' hloader', lineAddress_of hsound' hloader']
  · exact hport

/-- The ROM port is brought up to date once. -/
theorem updateRomPort_twice (u : Ef24) : u.updateRomPort.updateRomPort.romPort = u.updateRomPort.romPort := by
  cases hr : u.coreRunning with
  | false => simp only [Ef24.updateRomPort, hr, Bool.false_eq_true, if_false]
  | true =>
    have hholds : u.updateRomPort.holdsRequest = u.holdsRequest := by rw [updateRomPort_eq]; exact holdsRequest_of rfl rfl
    have hwinner : u.updateRomPort.fetchWinner = u.fetchWinner := by rw [updateRomPort_eq]; exact fetchWinner_of rfl rfl
    have hrun : u.updateRomPort.coreRunning = true := by rw [updateRomPort_eq]; exact hr
    have hmarked : ∀ v : Ef24, v.markOrphan.fetchWinner = v.fetchWinner := fun v => by
      rw [markOrphan_eq]; exact fetchWinner_of rfl rfl
    have hport : u.updateRomPort.romPort = u.markOrphan.grantFetch.romPort := by
      unfold Ef24.updateRomPort; rw [hr]; rfl
    have hagain : u.updateRomPort.updateRomPort.romPort = u.updateRomPort.markOrphan.grantFetch.romPort := by
      conv => lhs; rw [Ef24.updateRomPort]
      rw [hrun]; rfl
    rw [hagain, grantFetch_romPort, markOrphan_romPort, hmarked, hwinner, hholds, hport, grantFetch_romPort,
      markOrphan_romPort, hmarked]
    cases u.romPort with
    | console => rfl
    | fetching f => cases hf : u.holdsRequest f.requester <;> simp [hf]
    | idle =>
      cases hw : u.fetchWinner with
      | none => rfl
      | some r => simp [fetchWinner_holds hw]

theorem conclude_conclude_romPort (u : Ef24) : u.conclude.conclude.romPort = u.conclude.romPort := by
  have hstand : u.conclude.updateRomPort.romPort = u.updateRomPort.updateRomPort.romPort :=
    updateRomPort_romPort_of (conclude_romPort u) (by rw [conclude_chip, updateRomPort_eq])
      (by rw [conclude_sound, updateRomPort_eq]) (by rw [conclude_loader, updateRomPort_eq])
  rw [conclude_romPort u.conclude, hstand, updateRomPort_twice, conclude_romPort]

/-- A claim stands by the queues, the sequencer, the chip state and the supply, not by who has the port. -/
theorem conclude_claimStands (u : Ef24) (c : Claim) : u.conclude.claimStands c = u.claimStands c := by
  cases c with
  | drain => simp only [Ef24.claimStands, conclude_gateOpen]; rw [conclude_save]
  | flag => simp only [Ef24.claimStands, conclude_gateOpen, conclude_coreRunning]; rw [conclude_save]
  | sequencer => simp only [Ef24.claimStands, conclude_gateOpen, conclude_coreRunning]; rw [conclude_save]; rfl

theorem conclude_winningClaim (u : Ef24) : u.conclude.winningClaim = u.winningClaim := by
  unfold Ef24.winningClaim
  rw [funext (conclude_claimStands u)]

theorem winningClaim_stands {u : Ef24} {c : Claim} (hwins : u.winningClaim = some c) : u.claimStands c = true :=
  List.find?_some hwins

theorem conclude_conclude_port (u : Ef24) : u.conclude.conclude.save.port = u.conclude.save.port := by
  rw [conclude_port u.conclude, conclude_winningClaim]
  cases hport : u.conclude.save.port with
  | none =>
    dsimp only
    rw [conclude_port] at hport
    split at hport
    · split at hport
      · cases hport
      · exact hport
    · exact hport
  | some c =>
    dsimp only
    have hstands : u.claimStands c = true := by
      rw [conclude_port] at hport
      split at hport
      · split at hport
        case isTrue hc => cases hport; exact hc
        case isFalse => exact winningClaim_stands hport
      · exact winningClaim_stands hport
    rw [conclude_claimStands, if_pos hstands]

/-- What follows at once follows only once. -/
theorem conclude_conclude (u : Ef24) : u.conclude.conclude = u.conclude := by
  rw [conclude_fields u.conclude, conclude_conclude_rumble, conclude_conclude_power, conclude_conclude_romPort,
    conclude_save u.conclude, conclude_conclude_port]

/-- A settled chip has concluded. -/
theorem settle_conclude (u : Ef24) : u.settle.conclude = u.settle := conclude_conclude _

end Sys2Proof.Machine
end

section
/-! PROOFS. Settling and concluding (O3): what is due, in which order it happens, and what follows at once. -/

namespace Sys2Proof.Machine

/-! ## What follows at once: the fields it touches, and the SRAM port's claim (log 11) -/

theorem conclude_touches (u : Ef24) :
    u.conclude = { u with
      rumble := { u.rumble with motor := u.conclude.rumble.motor }
      power := { u.power with heavyLoad := u.conclude.power.heavyLoad, holds := u.conclude.power.holds }
      romPort := u.conclude.romPort
      save := { u.save with port := u.conclude.save.port } } := by
  have hrumble : u.conclude.rumble = { u.rumble with motor := u.conclude.rumble.motor } := by
    rw [conclude_rumble]
  have hpower : u.conclude.power =
      { u.power with heavyLoad := u.conclude.power.heavyLoad, holds := u.conclude.power.holds } := by
    rw [conclude_power]
    rfl
  rw [← hrumble, ← hpower, ← conclude_save]
  exact conclude_fields u

/-- The gate is open in GOOD and LOW (R176). -/
theorem gateOpen_iff (u : Ef24) : u.gateOpen = true ↔ u.power.supply = .good ∨ u.power.supply = .low := by
  unfold Ef24.gateOpen
  cases u.power.supply <;> simp [Supply.powers]

theorem claimStands_drain (u : Ef24) : u.claimStands .drain = true ↔
    (u.power.supply = .good ∨ u.power.supply = .low) ∧ u.save.buffer ≠ [] := by
  simp [Ef24.claimStands, gateOpen_iff]

theorem claimStands_flag (u : Ef24) : u.claimStands .flag = true ↔
    (u.power.supply = .good ∨ u.power.supply = .low) ∧ u.coreRunning = true ∧ u.save.flags ≠ [] := by
  simp [Ef24.claimStands, gateOpen_iff, and_assoc]

theorem claimStands_sequencer (u : Ef24) : u.claimStands .sequencer = true ↔
    (u.power.supply = .good ∨ u.power.supply = .low) ∧ u.coreRunning = true ∧ u.save.wants = true := by
  simp [Ef24.claimStands, gateOpen_iff, and_assoc]

/-- The access in progress goes on while its claim stands (R110). -/
theorem conclude_port_goesOn {u : Ef24} {c : Claim} (hport : u.save.port = some c) (hstands : u.claimStands c = true) :
    u.conclude.save.port = u.save.port := by
  rw [conclude_port, hport]
  exact if_pos hstands

/-- With no access that goes on, the port is the winning claim's (R110). -/
theorem conclude_port_free {u : Ef24} (hfree : ∀ c, u.save.port = some c → u.claimStands c = false) :
    u.conclude.save.port = u.winningClaim := by
  rw [conclude_port]
  cases hport : u.save.port with
  | none => rfl
  | some c => exact if_neg (by rw [hfree c hport]; exact Bool.false_ne_true)

/-- The claims in their order: the buffer, a flag operation, the sequencer (R110). -/
theorem winningClaim_order (u : Ef24) :
    (u.claimStands .drain = true → u.winningClaim = some .drain) ∧
    (u.claimStands .drain = false → u.claimStands .flag = true → u.winningClaim = some .flag) ∧
    (u.claimStands .drain = false → u.claimStands .flag = false → u.claimStands .sequencer = true →
      u.winningClaim = some .sequencer) ∧
    (u.claimStands .drain = false → u.claimStands .flag = false → u.claimStands .sequencer = false →
      u.winningClaim = none) := by
  unfold Ef24.winningClaim
  refine ⟨fun hd => ?_, fun hd hf => ?_, fun hd hf hs => ?_, fun hd hf hs => ?_⟩ <;> simp [List.find?, *]

/-! ## What is due -/

theorem kickEndDue_iff (r : Rumble) : r.kickEndDue = true ↔ r.motor.state = .kick ∧ r.motor.kickLeft = 0 := by
  simp [Rumble.kickEndDue]

theorem coastStopDue_iff (r : Rumble) : r.coastStopDue = true ↔ r.motor.state = .coasting ∧ 16 ≤ r.motor.coastCount := by
  simp [Rumble.coastStopDue]

theorem endBrakeDue_iff (r : Rumble) :
    r.endBrakeDue = true ↔ r.motor.state = .braking ∧ r.motor.brakeLeft = 0 ∧ r.playing = none := by
  simp [Rumble.endBrakeDue, and_assoc]

theorem atLastStep_iff (r : Rumble) (p : Playing) : r.atLastStep p = true ↔
    (r.header p.request.pattern).stepCount.toNat ≤ p.step + 1 ∧ p.playsLeft = some 0 := by
  simp [Rumble.atLastStep]

theorem stepEndDue_iff (r : Rumble) :
    r.stepEndDue = true ↔ ∃ p, r.playing = some p ∧ p.ticksLeft = 0 ∧ ¬ r.atLastStep p = true := by
  unfold Rumble.stepEndDue
  cases r.playing <;> simp

theorem finishDue_iff (r : Rumble) :
    r.finishDue = true ↔ ∃ p, r.playing = some p ∧ p.ticksLeft = 0 ∧ r.atLastStep p = true := by
  unfold Rumble.finishDue
  cases r.playing <;> simp

/-- The step in hand has run out when its end or the request's is due (R92). -/
theorem ticksOut_iff (r : Rumble) :
    (r.stepEndDue = false ∧ r.finishDue = false) ↔ ∀ p, r.playing = some p → p.ticksLeft ≠ 0 := by
  unfold Rumble.stepEndDue Rumble.finishDue
  cases r.playing with
  | none => simp
  | some p => cases hlast : r.atLastStep p <;> simp [hlast]

theorem primeDue_iff (v : Voice) : v.primeDue = true ↔ v.state = .priming ∧ 656 ≤ v.elapsed := by
  simp only [Voice.primeDue, Bool.and_eq_true, beq_iff_eq, decide_eq_true_eq]
  rfl

theorem rampDue_iff (v : Voice) : v.rampDue = true ↔ v.state = .releasing ∧ 66 ≤ v.elapsed := by
  simp only [Voice.rampDue, Voice.ramp, Bool.and_eq_true, beq_iff_eq]
  refine and_congr_right fun _ => ?_
  omega

theorem holdsEntryOf_iff (x : Save) (k : Nat) : x.holdsEntryOf k = false ↔ ∀ p ∈ x.buffer, p.slot ≠ k := by
  simp [Save.holdsEntryOf]

theorem drainingDue_iff (x : Save) : x.drainingDue = true ↔
    (∃ sizes, x.sequencer = .formatDraining sizes ∧ x.buffer = []) ∨
      ∃ k, (x.sequencer = .seedDraining k ∨ ∃ length, x.sequencer = .commitDraining k length) ∧
        ∀ p ∈ x.buffer, p.slot ≠ k := by
  unfold Save.drainingDue
  cases x.sequencer <;> simp [Save.holdsEntryOf]

theorem scanDue_iff (u : Ef24) : u.scanDue = true ↔
    (∃ k length index crc, u.save.sequencer = .scanning k length index crc ∧ length / 2 ≤ index) ∨
      ((∃ k length crc, u.save.sequencer = .guarding k length crc) ∧ u.rumble.heavyLoad = false) := by
  unfold Ef24.scanDue
  cases u.save.sequencer <;> simp

theorem intentDue_iff (x : Save) : x.intentDue = true ↔ ∃ commit k r, x.sequencer = .intent commit k r [] := by
  unfold Save.intentDue
  cases x.sequencer <;> simp

theorem switchingDue_iff (x : Save) : x.switchingDue = true ↔ ∃ commit k r, x.sequencer = .switching commit k r [] := by
  unfold Save.switchingDue
  cases x.sequencer <;> simp

theorem closingDue_iff (x : Save) : x.closingDue = true ↔ ∃ commit k, x.sequencer = .closing commit k [] := by
  unfold Save.closingDue
  cases x.sequencer <;> simp

theorem seedDue_iff (x : Save) : x.seedDue = true ↔
    ∃ k index held, x.sequencer = .copying k index held ∧ x.slotWords k ≤ index := by
  unfold Save.seedDue
  cases x.sequencer <;> simp

theorem formatDue_iff (x : Save) : x.formatDue = true ↔ ∃ sizes, x.sequencer = .formatting sizes [] := by
  unfold Save.formatDue
  cases x.sequencer <;> simp

theorem verifyDue_iff (x : Save) : x.verifyDue = true ↔
    ∃ k index crc, x.sequencer = .verifying k index crc ∧ (x.slot k).record.dataLength.toNat / 2 ≤ index := by
  unfold Save.verifyDue SlotRecord.dataWords
  cases x.sequencer <;> simp

theorem recoveryDue_iff (x : Save) : x.recoveryDue = true ↔ x.sequencer = .recovering .finished := by
  simp [Save.recoveryDue]

theorem anyInUse_iff (x : Sound) : x.anyInUse = false ↔ ∀ i, i < 6 → (x.voice i).state = .free := by
  simp only [Sound.anyInUse, List.any_eq_false, mem_voiceNumbers, Voice.inUse, bne_iff_ne, ne_eq, not_not]

theorem sleepDue_iff (u : Ef24) : u.sleepDue = true ↔
    u.chip = some .enteringSleep ∧ u.loader = none ∧ u.save.sequencer = .idle ∧ u.save.buffer = [] ∧
      u.rumble.motor.state = .stopped ∧ ∀ i, i < 6 → (u.sound.voice i).state = .free := by
  simp only [Ef24.sleepDue, Bool.and_eq_true, Bool.not_eq_true', anyInUse_iff, beq_iff_eq, Option.isNone_iff_eq_none,
    List.isEmpty_iff, and_assoc]

theorem sourceLost_iff (u : Ef24) : u.sourceLost = true ↔
    u.power.retained = true ∧ u.power.supply ≠ .good ∧ u.power.supply ≠ .low ∧ u.power.vbat = none := by
  unfold Ef24.sourceLost Power.supplied
  cases u.power.supply <;> cases u.power.vbat <;> simp [Supply.powers]

end Sys2Proof.Machine
end

section
/-! PROOFS. Settling and concluding, continued: nothing due, and the order of what is due (log 9). -/

namespace Sys2Proof.Machine

/-- Nothing is due, event by event. -/
theorem nothingDue_iff (u : Ef24) : u.nothingDue = true ↔
    u.rumble.kickEndDue = false ∧ u.rumble.coastStopDue = false ∧ u.rumble.endBrakeDue = false ∧
      (u.rumble.stepEndDue = false ∧ u.rumble.finishDue = false) ∧
      (∀ i, i < 6 → (u.sound.voice i).primeDue = false ∧ (u.sound.voice i).loopDue = false ∧
        (u.sound.voice i).endDue = false ∧ (u.sound.voice i).rampDue = false) ∧
      (u.save.drainingDue = false ∧ u.scanDue = false ∧ u.save.intentDue = false ∧ u.save.switchingDue = false ∧
        u.save.closingDue = false ∧ u.save.seedDue = false ∧ u.save.formatDue = false ∧ u.save.verifyDue = false ∧
        u.save.recoveryDue = false) ∧
      u.sleepDue = false ∧ u.sourceLost = false := by
  simp only [Ef24.nothingDue, Bool.and_eq_true, Bool.not_eq_true', List.all_eq_true, mem_voiceNumbers, and_assoc]

/-- A flag is clear where what it stands for fails. -/
theorem eq_false_of_iff {b : Bool} {p : Prop} (hb : b = true ↔ p) : b = false ↔ ¬ p := by
  rw [← Bool.not_eq_true, hb]

/-- A voice on which nothing is due is left. -/
theorem settleVoice_quiet {u : Ef24} {i : Nat} (hprime : (u.sound.voice i).primeDue = false)
    (hloop : (u.sound.voice i).loopDue = false) (hend : (u.sound.voice i).endDue = false)
    (hramp : (u.sound.voice i).rampDue = false) : u.settleVoice i = u := by
  have h1 : u.primeLimit i = u := event_not_due _ hprime
  have h2 : u.loopReturn i = u := event_not_due _ hloop
  have h3 : u.naturalEnd i = u := event_not_due _ hend
  have h4 : u.rampEnd i = u := event_not_due _ hramp
  rw [Ef24.settleVoice, h1, h2, h3, h4]

/-- A fold of operations that leave the chip leaves it. -/
theorem foldl_quiet {f : Ef24 → Nat → Ef24} {u : Ef24} {l : List Nat} (hquiet : ∀ i ∈ l, f u i = u) : l.foldl f u = u := by
  induction l with
  | nil => rfl
  | cons i l ih =>
    rw [List.foldl_cons, hquiet i List.mem_cons_self]
    exact ih fun j hj => hquiet j (List.mem_cons_of_mem _ hj)

/-- With nothing due, settling does no more than what follows at once. -/
theorem settle_quiet {u : Ef24} (hquiet : u.nothingDue = true) : u.settle = u.conclude := by
  obtain ⟨hkick, hcoast, hbrake, ⟨hstep, hfinish⟩, hvoices,
    ⟨hdraining, hscan, hintent, hswitching, hclosing, hseed, hformat, hverify, hrecovery⟩, hsleep, hsource⟩ :=
    (nothingDue_iff u).mp hquiet
  have e1 : u.kickEnd = u := event_not_due _ hkick
  have e2 : u.coastStop = u := event_not_due _ hcoast
  have e3 : u.endBrakeDone = u := event_not_due _ hbrake
  have e4 : u.stepEnd = u := event_not_due _ hstep
  have e5 : u.patternFinished = u := event_not_due _ hfinish
  have e6 : u.settleVoices = u := foldl_quiet fun i hi => by
    obtain ⟨h1, h2, h3, h4⟩ := hvoices i (mem_voiceNumbers.mp hi)
    exact settleVoice_quiet h1 h2 h3 h4
  have e7 : u.drainingDone = u := event_not_due _ hdraining
  have e8 : u.scanDone = u := event_not_due _ hscan
  have e9 : u.intentDone = u := event_not_due _ hintent
  have e10 : u.switchingDone = u := event_not_due _ hswitching
  have e11 : u.closingDone = u := event_not_due _ hclosing
  have e12 : u.seedDone = u := event_not_due _ hseed
  have e13 : u.formatDone = u := event_not_due _ hformat
  have e14 : u.verifyDone = u := event_not_due _ hverify
  have e15 : u.recoveryDone = u := event_not_due _ hrecovery
  have e16 : u.asleepReached = u := event_not_due _ hsleep
  have e17 : u.sourceCheck = u := if_neg (by rw [hsource]; exact Bool.false_ne_true)
  rw [Ef24.settle, Ef24.settleBlocks, Ef24.motorEnds, Ef24.settleSave, e1, e2, e3, e4, e5, e6, e7, e8, e9, e10, e11, e12,
    e13, e14, e15, e16, e17]

/-! ## An event's row, and an event whose occasion is not there -/

/-- An event whose occasion is not there, or whose core does not run, changes nothing. -/
theorem event_stays {u : Ef24} {due : Bool} (f : Ef24 → Ef24) (hnot : ¬ (u.coreRunning = true ∧ due = true)) :
    u.event due f = u := by
  unfold Ef24.event
  rw [if_neg]
  rwa [Bool.and_eq_true]

/-- A step's end that is due happens by its row as it happens before a command. -/
theorem endStep_event {u : Ef24} {due : Ef24 → Bool} (finish : Ef24 → Ef24) (hr : u.coreRunning = true)
    (hd : due u = true) : u.endStep due finish = u.event (due u) finish :=
  (endStep_due finish hr hd).trans (event_due finish hr hd).symm

/-- The words that a loss of retention changes lie within the strapped capacity (R185). -/
theorem sourceCheck_lost {u : Ef24} (hlost : u.sourceLost = true) :
    ∃ writes : List (Nat × Word),
      u.sourceCheck = { u with
        sram := u.sram.writeAll writes, power := { u.power with retained := false }, free := u.free + 1 } ∧
      ∀ x ∈ writes, x.1 < 512 * Config.sramKiB u.sramCode := by
  refine ⟨u.lostWords, if_pos hlost, fun x hx => ?_⟩
  have hkept := (List.mem_filter.mp hx).2
  exact of_decide_eq_true hkept

/-! ## The statement, part by part -/

theorem conclude_port_claims (u : Ef24) :
    let gate := u.power.supply = .good ∨ u.power.supply = .low
    let drain := gate ∧ u.save.buffer ≠ []
    let flag := gate ∧ u.coreRunning = true ∧ u.save.flags ≠ []
    let sequencer := gate ∧ u.coreRunning = true ∧ u.save.wants = true
    let goesOn := (u.save.port = some .drain ∧ drain) ∨ (u.save.port = some .flag ∧ flag) ∨
      (u.save.port = some .sequencer ∧ sequencer)
    (goesOn → u.conclude.save.port = u.save.port) ∧
    (¬ goesOn →
      (drain → u.conclude.save.port = some .drain) ∧
      (¬ drain → flag → u.conclude.save.port = some .flag) ∧
      (¬ drain → ¬ flag → sequencer → u.conclude.save.port = some .sequencer) ∧
      (¬ drain → ¬ flag → ¬ sequencer → u.conclude.save.port = none)) := by
  intro gate drain flag sequencer goesOn
  have hdrain : u.claimStands .drain = true ↔ drain := claimStands_drain u
  have hflag : u.claimStands .flag = true ↔ flag := claimStands_flag u
  have hsequencer : u.claimStands .sequencer = true ↔ sequencer := claimStands_sequencer u
  refine ⟨?goesOn, fun hnot => ?granted⟩
  case goesOn =>
    rintro (⟨hport, hclaim⟩ | ⟨hport, hclaim⟩ | ⟨hport, hclaim⟩)
    · exact conclude_port_goesOn hport (hdrain.mpr hclaim)
    · exact conclude_port_goesOn hport (hflag.mpr hclaim)
    · exact conclude_port_goesOn hport (hsequencer.mpr hclaim)
  case granted =>
    have hfree : ∀ c, u.save.port = some c → u.claimStands c = false := by
      intro c hport
      rw [← Bool.not_eq_true]
      intro hstands
      cases c with
      | drain => exact hnot (.inl ⟨hport, hdrain.mp hstands⟩)
      | flag => exact hnot (.inr (.inl ⟨hport, hflag.mp hstands⟩))
      | sequencer => exact hnot (.inr (.inr ⟨hport, hsequencer.mp hstands⟩))
    rw [conclude_port_free hfree, ← hdrain, ← hflag, ← hsequencer]
    simp only [Bool.not_eq_true]
    exact winningClaim_order u

theorem nothingDue_when (u : Ef24) :
    let m := u.rumble.motor
    let voiceDue (v : Voice) := (v.state = .priming ∧ 656 ≤ v.elapsed) ∨ v.loopDue = true ∨ v.endDue = true ∨
      (v.state = .releasing ∧ 66 ≤ v.elapsed)
    let saveEnd := u.save.drainingDue = true ∨ u.scanDue = true ∨ u.save.intentDue = true ∨ u.save.switchingDue = true ∨
      u.save.closingDue = true ∨ u.save.seedDue = true ∨ u.save.formatDue = true ∨ u.save.verifyDue = true ∨
      u.save.recoveryDue = true
    u.nothingDue = true ↔
      ¬ (m.state = .kick ∧ m.kickLeft = 0) ∧ ¬ (m.state = .coasting ∧ 16 ≤ m.coastCount) ∧
      ¬ (m.state = .braking ∧ m.brakeLeft = 0 ∧ u.rumble.playing = none) ∧
      (∀ p, u.rumble.playing = some p → p.ticksLeft ≠ 0) ∧
      (∀ i, i < 6 → ¬ voiceDue (u.sound.voice i)) ∧ ¬ saveEnd ∧
      ¬ (u.chip = some .enteringSleep ∧ u.loader = none ∧ u.save.sequencer = .idle ∧ u.save.buffer = [] ∧
        m.state = .stopped ∧ ∀ i, i < 6 → (u.sound.voice i).state = .free) ∧
      ¬ (u.power.retained = true ∧ u.power.supply ≠ .good ∧ u.power.supply ≠ .low ∧ u.power.vbat = none) := by
  intro m voiceDue saveEnd
  have hvoice : ∀ v : Voice, (v.primeDue = false ∧ v.loopDue = false ∧ v.endDue = false ∧ v.rampDue = false) ↔
      ¬ voiceDue v := fun v => by
    simp only [voiceDue, ← primeDue_iff, ← rampDue_iff, not_or, Bool.not_eq_true]
  have hsave : ¬ saveEnd ↔ (u.save.drainingDue = false ∧ u.scanDue = false ∧ u.save.intentDue = false ∧
      u.save.switchingDue = false ∧ u.save.closingDue = false ∧ u.save.seedDue = false ∧ u.save.formatDue = false ∧
      u.save.verifyDue = false ∧ u.save.recoveryDue = false) := by
    simp only [saveEnd, not_or, Bool.not_eq_true]
  rw [nothingDue_iff, ticksOut_iff, eq_false_of_iff (kickEndDue_iff _), eq_false_of_iff (coastStopDue_iff _),
    eq_false_of_iff (endBrakeDue_iff _), eq_false_of_iff (sleepDue_iff _), eq_false_of_iff (sourceLost_iff _), hsave]
  simp only [hvoice, m]

/-- Settles O3: what follows at once, the SRAM port's claims, what is due, and the order in which it happens. -/
theorem settleAndConcludeTouchOnlyDerived : Obligations.SettleAndConcludeTouchOnlyDerived := by
  refine ⟨?concludes, conclude_port_claims, ?wants, ?nothingDue, ?order⟩
  case concludes =>
    intro u
    refine ⟨settle_quiet, conclude_touches u, conclude_strength_le, ?_, conclude_conclude u, settle_conclude u,
      conclude_rumble_follow, conclude_rumble_held, conclude_romPort u⟩
    rw [conclude_heavyLoad, Rumble.heavyLoad, conclude_rumble]
  case wants =>
    intro x
    unfold Save.wants
    cases x.sequencer with
    | recovering stage => cases stage <;> simp [RecoveryStage.wants]
    | verifying k index crc => exact decide_eq_true_iff
    | _ => simp
  case nothingDue =>
    intro u m voiceDue saveDue
    have hsave : (u.save.drainingDue = true ∨ u.scanDue = true ∨ u.save.intentDue = true ∨ u.save.switchingDue = true ∨
        u.save.closingDue = true ∨ u.save.seedDue = true ∨ u.save.formatDue = true ∨ u.save.verifyDue = true ∨
        u.save.recoveryDue = true) ↔ saveDue := by
      rw [drainingDue_iff, scanDue_iff, intentDue_iff, switchingDue_iff, closingDue_iff, seedDue_iff, formatDue_iff,
        verifyDue_iff, recoveryDue_iff]
      cases hq : u.save.sequencer with
      | verifying k index crc =>
        have hwants : u.save.wants = false ↔ (u.save.slot k).record.dataLength.toNat / 2 ≤ index := by
          unfold Save.wants
          rw [hq]
          exact decide_eq_false_iff_not.trans Nat.not_lt
        simp [saveDue, hq, hwants]
      | _ => simp [saveDue, hq, Save.wants]
    rw [← hsave]
    exact nothingDue_when u
  case order =>
    intro s u m q happens atEnd voiced
    have hrow : ∀ {before : Ef24} {due : Bool} {occasion : Prop} {row : Instr} {f : Ef24 → Ef24},
        (due = true ↔ occasion) →
        (before.coreRunning = true → due = true → exec row s = s.becoming (before.event due f)) →
        happens before occasion row (before.event due f) := fun hdue hexec =>
      ⟨fun hr ho => hexec hr (hdue.mpr ho), fun hnot => event_stays _ (by rwa [hdue])⟩
    refine ⟨rfl, rfl, rfl, stepEnd_motorEnds u, hrow (kickEndDue_iff _) fun _ _ => exec_kickEnd s,
      hrow (coastStopDue_iff _) fun _ _ => exec_coastStop s, hrow (endBrakeDue_iff _) fun _ _ => exec_endBrakeDone s,
      ⟨hrow ?stepEnd fun _ _ => exec_stepEnd s, hrow ?patternFinished fun _ _ => exec_patternFinished s⟩,
      fun i _ => ⟨?primeLimit, ?notPrimed, hrow Iff.rfl fun _ _ => exec_loopReturn i s,
        hrow Iff.rfl fun _ _ => exec_cueNaturalEnd i s, hrow (rampDue_iff _) fun _ _ => exec_rampEnd i s⟩,
      hrow (drainingDue_iff _) fun _ _ => exec_drainingDone s,
      hrow (scanDue_iff _) fun hr hd => (exec_scanDone s).trans ?_,
      hrow (intentDue_iff _) fun hr hd => (exec_intentDone s).trans ?_,
      hrow (switchingDue_iff _) fun hr hd => (exec_switchingDone s).trans ?_,
      hrow (closingDue_iff _) fun hr hd => (exec_closingDone s).trans ?_,
      hrow (seedDue_iff _) fun hr hd => (exec_seedDone s).trans ?_,
      hrow (formatDue_iff _) fun hr hd => (exec_formatDone s).trans ?_,
      hrow (verifyDue_iff _) fun hr hd => (exec_verifyDone s).trans ?_,
      hrow (recoveryDue_iff _) fun hr hd => (exec_recoveryDone s).trans ?_,
      hrow (sleepDue_iff _) fun _ _ => exec_asleepReached s,
      fun hlost => sourceCheck_lost ((sourceLost_iff u).mpr hlost),
      fun hnot => if_neg (by rwa [sourceLost_iff])⟩
    case stepEnd => simp only [stepEndDue_iff, atLastStep_iff, atEnd]
    case patternFinished => simp only [finishDue_iff, atLastStep_iff, atEnd]
    case primeLimit => exact fun hr hprimed hlong => event_due _ hr ((primeDue_iff _).mpr ⟨hprimed, hlong⟩)
    case notPrimed => exact fun hnot => event_stays _ (by rwa [primeDue_iff])
    all_goals rw [endStep_event _ hr hd]

end Sys2Proof.Machine
end

section
/-! PROOFS. The console's transactions (Chapters 1 to 3, 7, 8): what a read and a write do in a window of each kind. -/

namespace Sys2Proof.Machine

/-! ## The windows: one lemma for each kind (R5 to R12) -/

section
variable {u : Ef24} {addr : Address} {i : Nat}

theorem consoleRead_rom (h : u.opensAs addr i .rom) : u.consoleRead addr = u.readRom (u.window i) addr := by
  rw [consoleRead_window h, Ef24.readWindow, h.2.2]

theorem consoleRead_saveStage (h : u.opensAs addr i .saveStage) :
    u.consoleRead addr = u.readStage (u.window i).slot ((u.window i).wordOffset addr) := by
  rw [consoleRead_window h, Ef24.readWindow, h.2.2]

theorem consoleRead_saveLive (h : u.opensAs addr i .saveLive) :
    u.consoleRead addr = u.readLive (u.window i).slot ((u.window i).wordOffset addr) := by
  rw [consoleRead_window h, Ef24.readWindow, h.2.2]

theorem consoleRead_flags (h : u.opensAs addr i .flags) :
    u.consoleRead addr = u.readFlags ((u.window i).wordOffset addr) := by
  rw [consoleRead_window h, Ef24.readWindow, h.2.2]

theorem consoleRead_trigger (h : u.opensAs addr i .trigger) : u.consoleRead addr = u.answer noneWord := by
  rw [consoleRead_window h, Ef24.readWindow, h.2.2]

theorem consoleRead_control (h : u.opensAs addr i .control) :
    u.consoleRead addr = u.readPort (portAt ((u.window i).wordOffset addr)) := by
  rw [consoleRead_window h, Ef24.readWindow, h.2.2]

variable {value : Word}

theorem consoleWrite_rom (h : u.opensAs addr i .rom) : u.consoleWrite addr value = u.selectBank i (u.window i) value := by
  rw [consoleWrite_window h, Ef24.writeWindow, h.2.2]

theorem consoleWrite_saveStage (h : u.opensAs addr i .saveStage) :
    u.consoleWrite addr value = u.writeStage (u.window i).slot ((u.window i).wordOffset addr) value := by
  rw [consoleWrite_window h, Ef24.writeWindow, h.2.2]

theorem consoleWrite_saveLive (h : u.opensAs addr i .saveLive) : u.consoleWrite addr value = u := by
  rw [consoleWrite_window h, Ef24.writeWindow, h.2.2]

theorem consoleWrite_flags (h : u.opensAs addr i .flags) : u.consoleWrite addr value = u := by
  rw [consoleWrite_window h, Ef24.writeWindow, h.2.2]

theorem consoleWrite_trigger (h : u.opensAs addr i .trigger) :
    u.consoleWrite addr value = u.trigger i (u.window i) value := by
  rw [consoleWrite_window h, Ef24.writeWindow, h.2.2]

theorem consoleWrite_control (h : u.opensAs addr i .control) :
    u.consoleWrite addr value = u.writePort value (portAt ((u.window i).wordOffset addr)) := by
  rw [consoleWrite_window h, Ef24.writeWindow, h.2.2]

/-! ## No window: an unmapped block, and a core that does not run (R3, R4) -/

theorem consoleRead_unmapped (hrun : u.coreRunning = true) (hnone : u.windowOf (blockOf addr) = none) :
    u.consoleRead addr = u.answer noneWord := by
  rw [Ef24.consoleRead, if_pos hrun, hnone]

theorem consoleWrite_unmapped (hrun : u.coreRunning = true) (hnone : u.windowOf (blockOf addr) = none) :
    u.consoleWrite addr value = u := by
  rw [Ef24.consoleWrite, if_pos hrun, hnone]

end

/-- Every read row is the console read of its address. -/
theorem exec_readRow {addr : Address} {c : Instr} (hc : c ∈ readRows addr) (s : State) :
    exec c s = s.answering (s.settled.consoleRead addr) := by
  rw [readRows] at hc
  fin_cases hc <;> rfl

/-- Every write row is the console write of its address and value. -/
theorem exec_writeRow {addr : Address} {value : Word} {c : Instr} (hc : c ∈ writeRows addr value) (s : State) :
    exec c s = s.answering (s.settled.consoleWrite addr value) := by
  rw [writeRows] at hc
  fin_cases hc <;> rfl

/-! ## The blocks of the windows (R1, R3) -/

/-- The entries in use are those of a kind other than UNUSED. -/
theorem WindowEntry.isValid_iff (e : WindowEntry) : e.isValid = true ↔ e.kindNamed ≠ some .unused := by
  obtain ⟨base, kind, spanCode, target, bankSelect, count, bank⟩ := e
  unfold WindowEntry.isValid WindowEntry.kindNamed
  dsimp only
  revert kind
  decide

/-- An entry holds the blocks from its base up, its span of them, unless it is UNUSED. -/
theorem WindowEntry.holdsBlock_iff (e : WindowEntry) (block : Nat) :
    e.holdsBlock block = true ↔
      e.kindNamed ≠ some .unused ∧ e.base.toNat ≤ block ∧ block < e.base.toNat + e.span := by
  rw [WindowEntry.holdsBlock, Bool.and_eq_true, decide_eq_true_iff, WindowEntry.isValid_iff]

/-- The window of a block is the lowest entry that holds it. -/
theorem windowOf_iff (u : Ef24) (block : Nat) :
    let holds (i : Nat) := i < 16 ∧ (u.window i).kindNamed ≠ some .unused ∧
      (u.window i).base.toNat ≤ block ∧ block < (u.window i).base.toNat + (u.window i).span
    (∀ i, u.windowOf block = some i ↔ holds i ∧ ∀ j, holds j → i ≤ j) ∧ (u.windowOf block = none ↔ ∀ j, ¬ holds j) := by
  exact lowestOffender_iff 16 _ _ fun i _ => (u.window i).holdsBlock_iff block

/-- Settles O11: the read of a ROM window, then the search for the window of a block. -/
theorem romReadGivesBankWord : Obligations.RomReadGivesBankWord := by
  refine ⟨?read, fun addr e => ⟨rfl, rfl⟩, windowOf_iff⟩
  intro s addr i u e hopen
  rw [exec_romRead]
  change s.answering (u.consoleRead addr) = _
  clear_value u
  rw [consoleRead_rom hopen]
  rfl

/-! ## Save and flag windows (R7, R9, R10) -/

/-- The staging image of a slot (R108). -/
theorem stagingImage_cases (x : Slot) :
    (x.phase = .none → x.record.valid = false → x.stagingImage = .a) ∧
      (x.phase = .none → x.record.valid = true → x.record.live = .a → x.stagingImage = .b) ∧
      (x.phase = .none → x.record.valid = true → x.record.live = .b → x.stagingImage = .a) ∧
      ∀ view, x.phase = .intentWritten view → x.stagingImage = view := by
  refine ⟨?_, ?_, ?_, ?_⟩
  · intro hphase hvalid
    simp [Slot.stagingImage, hphase, hvalid]
  · intro hphase hvalid hlive
    simp [Slot.stagingImage, hphase, hvalid, hlive, Image.other]
  · intro hphase hvalid hlive
    simp [Slot.stagingImage, hphase, hvalid, hlive, Image.other]
  · intro view hphase
    simp [Slot.stagingImage, hphase]

/-- A read of the live view, its two conditions as one. -/
theorem readLive_eq (u : Ef24) (k d : Nat) :
    u.readLive k d =
      if (u.save.slot k).record.valid = true ∧ d < u.save.slotWords k then u.readSaved (u.save.liveBase k + d)
      else u.answer noneWord := by
  unfold Ef24.readLive
  simp only [Bool.and_eq_true, decide_eq_true_iff]

/-- Settles O12: the three windows' reads, where the images lie, which image a view shows, the newest posted word. -/
theorem saveAndFlagReadsServe : Obligations.SaveAndFlagReadsServe := by
  refine ⟨?reads, fun x k => ⟨rfl, rfl, rfl, rfl, rfl⟩, stagingImage_cases, newestPosted_spec⟩
  intro s addr i u
  have hread : ∀ c ∈ readRows addr, exec c s = s.answering (u.consoleRead addr) := fun c hc => exec_readRow hc s
  -- the reads are compared for any chip, so that no step of settling is unfolded
  clear_value u
  intro e d served
  refine ⟨fun hopen => ?stage, fun hopen => ?live, fun hopen => ?flags⟩
  case stage =>
    rw [hread _ (by simp [readRows]), consoleRead_saveStage hopen]
    rfl
  case live =>
    rw [hread _ (by simp [readRows]), consoleRead_saveLive hopen, readLive_eq]
    rfl
  case flags =>
    rw [hread _ (by simp [readRows]), consoleRead_flags hopen]
    rfl

/-! ## Bank-select and trigger writes (R6, R11) -/

theorem selectBank_cases (u : Ef24) (i : Nat) (e : WindowEntry) (value : Word) :
    u.selectBank i e value =
      if e.bankSelect = false then u
      else if value.toNat < e.bankCount then
        { u with windows := u.windows.setIfInBounds i { e with bank := value.toNat } }
      else u.post .bankFault i value.toNat := by
  unfold Ef24.selectBank
  simp only [Bool.not_eq_true']
  rfl

/-- Settles O13: each window's write is the operation of its kind. -/
theorem bankAndTriggerWrites : Obligations.BankAndTriggerWrites := by
  intro s addr value i u
  have hwrite : ∀ c ∈ writeRows addr value, exec c s = s.answering (u.consoleWrite addr value) :=
    fun c hc => exec_writeRow hc s
  clear_value u
  intro e
  refine ⟨fun hopen => ?bank, fun hopen => ?trigger⟩
  case bank => rw [hwrite _ (by simp [writeRows]), consoleWrite_rom hopen, selectBank_cases]
  case trigger =>
    rw [hwrite _ (by simp [writeRows]), consoleWrite_trigger hopen]
    rfl

/-! ## Writes into a staging image (R8, R112) -/

section
variable {u : Ef24} {k : Nat} (d : Nat) (value : Word)

theorem writeStage_past (hd : u.save.slotWords k ≤ d) : u.writeStage k d value = u :=
  if_neg (Nat.not_lt.mpr hd)

theorem writeStage_inside (hd : d < u.save.slotWords k) : u.writeStage k d value = u.stageWrite k d value :=
  if_pos hd

theorem stageWrite_drops (h : u.save.sequencer.dropsWrites k = true) : u.stageWrite k d value = u.setTainted k true :=
  if_pos h

/-- A commit that a write ends is in none of the steps that drop writes. -/
theorem stageWrite_disturbsCommit (h : u.save.sequencer.commitDisturbed k = true) :
    u.stageWrite k d value = (u.disturbCommit k).postWrite k d value := by
  have hkeeps : u.save.sequencer.dropsWrites k ≠ true := by
    intro hdrops
    cases hq : u.save.sequencer <;> simp_all [Sequencer.commitDisturbed, Sequencer.dropsWrites]
  exact (if_neg hkeeps).trans (if_pos h)

/-- A seed that a write ends is no step of a commit or a discard. -/
theorem stageWrite_disturbsSeed (h : u.save.sequencer.seedDisturbed k = true) :
    u.stageWrite k d value = (u.disturbSeed k).postWrite k d value := by
  have hother : u.save.sequencer.dropsWrites k ≠ true ∧ u.save.sequencer.commitDisturbed k ≠ true := by
    cases hq : u.save.sequencer <;>
      simp_all [Sequencer.seedDisturbed, Sequencer.commitDisturbed, Sequencer.dropsWrites]
  exact (if_neg hother.1).trans ((if_neg hother.2).trans (if_pos h))

theorem stageWrite_posts (h1 : u.save.sequencer.dropsWrites k ≠ true) (h2 : u.save.sequencer.commitDisturbed k ≠ true)
    (h3 : u.save.sequencer.seedDisturbed k ≠ true) : u.stageWrite k d value = u.postWrite k d value :=
  (if_neg h1).trans ((if_neg h2).trans (if_neg h3))

end

/-- Settles O14: past the image, or by the step in progress. -/
theorem stageWritePostsOrDrops : Obligations.StageWritePostsOrDrops := by
  intro s addr value i u
  have hexec : exec (.saveStageWrite addr value) s = s.answering (u.consoleWrite addr value) :=
    exec_saveStageWrite addr value s
  clear_value u
  intro k d q tainted posted later earlier seeding hopen
  have hwrite : u.consoleWrite addr value = u.writeStage k d value := consoleWrite_saveStage hopen
  rw [hexec, hwrite]
  refine ⟨fun hpast => by rw [writeStage_past d value hpast], fun hinside => ?_⟩
  rw [writeStage_inside d value hinside]
  refine ⟨fun hlater => ?later, fun hearlier => ?earlier, fun hseeding => ?seeding, fun h1 h2 h3 => ?posted⟩
  case later => exact congrArg s.answering (stageWrite_drops d value ((dropsWrites_iff _ _).mpr hlater))
  case earlier =>
    exact congrArg s.answering (stageWrite_disturbsCommit d value ((commitDisturbed_iff _ _).mpr hearlier))
  case seeding =>
    exact congrArg s.answering (stageWrite_disturbsSeed d value ((seedDisturbed_iff _ _).mpr hseeding))
  case posted =>
    exact congrArg s.answering (stageWrite_posts d value (fun h => h1 ((dropsWrites_iff _ _).mp h))
      (fun h => h2 ((commitDisturbed_iff _ _).mp h)) (fun h => h3 ((seedDisturbed_iff _ _).mp h)))

end Sys2Proof.Machine
end

section
/-! PROOFS. The control aperture's ports and the ignored transactions (Chapters 1 and 3). -/

namespace Sys2Proof.Machine

/-! ## Ignored writes, empty reads, the held core (R3, R4, R12) -/

/-- Beyond COMMAND and DATA a port takes no write. -/
theorem writePort_portAt (u : Ef24) (value : Word) {offset : Nat} (h0 : offset ≠ 0) (h3 : offset ≠ 3) :
    u.writePort value (portAt offset) = u := by
  match offset with
  | 1 | 2 | 4 | _ + 5 => rfl
  | 0 | 3 => contradiction

/-- COMMAND, DATA and what lies beyond PEEK give no word. -/
theorem readPort_portAt (u : Ef24) {offset : Nat} (h : offset = 0 ∨ offset = 3 ∨ 5 ≤ offset) :
    u.readPort (portAt offset) = u.answer noneWord := by
  match offset with
  | 0 | 3 | _ + 5 => rfl
  | 1 | 2 | 4 => omega

/-- Settles O15: one lemma of the windows for each of the cases in which nothing answers. -/
theorem ignoredWritesChangeNothing : Obligations.IgnoredWritesChangeNothing := by
  refine ⟨?writes, ?reads⟩
  case writes =>
    intro s addr value u
    have hexec : exec (.ignoredWrite addr value) s = s.answering (u.consoleWrite addr value) :=
      exec_ignoredWrite addr value s
    clear_value u
    intro unmapped readOnly noPort hcases
    rw [hexec]
    rcases hcases with ⟨hrun, hnone⟩ | ⟨i, hlive | hflags | ⟨hrom, hselect⟩⟩ | ⟨i, hcontrol, h0, h3⟩
    · rw [consoleWrite_unmapped hrun hnone]
    · rw [consoleWrite_saveLive hlive]
    · rw [consoleWrite_flags hflags]
    · rw [consoleWrite_rom hrom, selectBank_cases, if_pos hselect]
    · rw [consoleWrite_control hcontrol, writePort_portAt u value h0 h3]
  case reads =>
    intro s addr u
    have hread : ∀ c ∈ readRows addr, exec c s = s.answering (u.consoleRead addr) := fun c hc => exec_readRow hc s
    clear_value u
    intro unmapped trigger noPort hcases c hc
    rw [hread c hc]
    rcases hcases with ⟨hrun, hnone⟩ | ⟨i, htrigger⟩ | ⟨i, hcontrol, hoffset⟩
    · rw [consoleRead_unmapped hrun hnone]; rfl
    · rw [consoleRead_trigger htrigger]; rfl
    · rw [consoleRead_control hcontrol, readPort_portAt u hoffset]; rfl

/-- The core runs in three of the four chip states (R142). -/
theorem coreRunning_iff (u : Ef24) :
    u.coreRunning = true ↔ u.chip = some .run ∨ u.chip = some .enteringSleep ∨ u.chip = some .asleep := by
  unfold Ef24.coreRunning
  rcases u.chip with _ | state
  · simp
  · cases state <;> simp

/-- Settles O16. -/
theorem heldCoreDecodesNothing : Obligations.HeldCoreDecodesNothing := by
  refine ⟨fun s addr value hheld => ⟨fun c hc => ?_, fun c hc => ?_⟩, coreRunning_iff⟩
  · rw [exec_readRow hc, consoleRead_held addr hheld]; rfl
  · rw [exec_writeRow hc, consoleWrite_held addr value hheld]

/-! ## COMMAND and RESPONSE (R33, R35) -/

/-- A header word: its low byte is the argument count, and 1 to 31 arguments are collected. -/
theorem CommandUnit.header_eq (c : CommandUnit) (value : Word) :
    let count := value.toNat % 256
    c.header value = { c with
      state := if 1 ≤ count ∧ count ≤ 31 then .collecting else .executing
      frame := [value], expected := if 1 ≤ count ∧ count ≤ 31 then count else 0, response := [], taken := 0 } := by
  have hcount : Field.get value 0 8 = value.toNat % 256 := congrArg (· % 256) (Nat.div_one value.toNat)
  unfold CommandUnit.header
  rw [hcount]
  dsimp only
  split <;> rfl

theorem CommandUnit.write_executing {c : CommandUnit} (value : Word) (h : c.state = .executing) :
    c.write value = { c with protocolError := true } := by
  cases c
  cases h
  rfl

theorem CommandUnit.write_collecting {c : CommandUnit} (value : Word) (h : c.state = .collecting) :
    c.write value = c.argument value := by
  rw [CommandUnit.write, h]

/-- A COMMAND write in IDLE or RESPONDING begins a new frame. -/
theorem CommandUnit.write_header {c : CommandUnit} (value : Word) (h : c.state = .idle ∨ c.state = .responding) :
    c.write value = c.header value := by
  rcases h with h | h <;> rw [CommandUnit.write, h]

/-- Settles O17: by the command state. -/
theorem commandWriteCollectsFrame : Obligations.CommandWriteCollectsFrame := by
  intro s addr value i u
  have hexec : exec (.commandWrite addr value) s = s.answering (u.consoleWrite addr value) :=
    exec_commandWrite addr value s
  clear_value u
  intro count header hopen hoffset
  have hwrite : u.consoleWrite addr value = { u with command := u.command.write value } := by
    rw [consoleWrite_control hopen, hoffset]
    rfl
  have hheader : u.command.header value = header := CommandUnit.header_eq u.command value
  rw [hexec, hwrite, ← hheader]
  refine ⟨fun hstate => ?header, fun hstate => ?argument, fun hstate => ?error⟩
  case header => rw [CommandUnit.write_header value hstate]
  case argument => rw [CommandUnit.write_collecting value hstate]; rfl
  case error => rw [CommandUnit.write_executing value hstate]

/-- Outside RESPONDING a read of RESPONSE or PEEK gives no word and marks nothing. -/
theorem CommandUnit.next_pop_outside {c : CommandUnit} (h : c.state ≠ .responding) : c.next = noneWord ∧ c.pop = c := by
  unfold CommandUnit.next CommandUnit.pop
  cases hstate : c.state <;> simp_all

theorem CommandUnit.next_responding {c : CommandUnit} (h : c.state = .responding) :
    c.next = c.response.getD c.taken 0xFFFF := by
  rw [CommandUnit.next, h]
  rfl

theorem CommandUnit.pop_responding {c : CommandUnit} (h : c.state = .responding) :
    c.pop = if c.taken + 1 < c.response.length then { c with taken := c.taken + 1 }
      else { c with state := .idle, response := [], taken := 0 } := by
  rw [CommandUnit.pop, h]

/-- Settles O18: RESPONSE reads and marks, PEEK only reads. -/
theorem responseReadPops : Obligations.ResponseReadPops := by
  intro s addr i u
  have hexec : exec (.responseRead addr) s = s.answering (u.consoleRead addr) := exec_responseRead addr s
  clear_value u
  intro c next hopen
  rw [hexec, consoleRead_control hopen]
  refine ⟨fun hoffset hstate hmore => ?more, fun hoffset hstate hlast => ?last, fun hoffset hstate => ?peek,
    fun hoffset hstate => ?outside⟩
  case more =>
    rw [hoffset, portAt, Ef24.readPort, CommandUnit.next_responding hstate, CommandUnit.pop_responding hstate,
      if_pos hmore]
    rfl
  case last =>
    rw [hoffset, portAt, Ef24.readPort, CommandUnit.next_responding hstate, CommandUnit.pop_responding hstate,
      if_neg (Nat.not_lt.mpr hlast)]
    rfl
  case peek =>
    rw [hoffset, portAt, Ef24.readPort, CommandUnit.next_responding hstate]
    rfl
  case outside =>
    obtain ⟨hnext, hpop⟩ := CommandUnit.next_pop_outside hstate
    rcases hoffset with hoffset | hoffset
    · rw [hoffset, portAt, Ef24.readPort, hnext, hpop]
      rfl
    · rw [hoffset, portAt, Ef24.readPort, hnext]
      rfl

/-! ## STATUS (R36, R37) -/

theorem VolumeState.code_lt (x : VolumeState) : x.code < 4 := by cases x <;> decide

theorem CommandState.code_lt (x : CommandState) : x.code < 4 := by cases x <;> decide

theorem chipCode_lt (x : Option ChipState) : chipCode x < 4 := by
  rcases x with _ | x
  · decide
  · cases x <;> decide

/-- A bit of a number's word. -/
theorem word_getLsbD {n k : Nat} {b : Bool} (hk : k < 16) (h : n / 2 ^ k % 2 = b.toNat) : (word n).getLsbD k = b := by
  unfold word
  rw [BitVec.getLsbD_ofNat, Nat.testBit_eq_decide_div_mod_eq, h, decide_eq_true hk]
  cases b <;> rfl

/-- A field of a number's word that lies inside it. -/
theorem word_get (n lo width : Nat) (h : lo + width ≤ 16) : Field.get (word n) lo width = n / 2 ^ lo % 2 ^ width := by
  unfold Field.get word
  rw [BitVec.toNat_ofNat]
  apply Nat.eq_of_testBit_eq
  intro j
  by_cases hj : j < width
  · have hlow : lo + j < 16 := by omega
    rw [Nat.testBit_mod_two_pow, Nat.testBit_mod_two_pow, Nat.testBit_div_two_pow, Nat.testBit_div_two_pow,
      Nat.testBit_mod_two_pow, Nat.add_comm j lo, decide_eq_true hlow, Bool.true_and]
  · simp [Nat.testBit_mod_two_pow, hj]

/-- The status word's parts, each moved to its place (section 13.1). -/
theorem statusWord_eq (u : Ef24) (h : u.events.queue.length ≤ 16) :
    u.statusWord = word (u.power.coinLow.toNat * 32768 + u.loader.isSome.toNat * 16384 + u.save.volume.code * 4096 +
      (u.power.supply == .low).toNat * 2048 + chipCode u.chip * 512 + u.command.protocolError.toNat * 256 +
      u.events.overflow.toNat * 128 + u.events.queue.length * 4 + u.command.state.code) := by
  have hmark : ∀ (b : Bool) (bit : Nat), Field.mark b bit = b.toNat * 2 ^ bit := by
    intro b bit
    cases b <;> simp [Field.mark]
  have hlength : u.events.queue.length < 2 ^ 5 := by omega
  unfold Ef24.statusWord
  rw [put_of_fits _ 12 2 u.save.volume.code_lt, put_of_fits _ 9 2 (chipCode_lt u.chip), put_of_fits _ 2 5 hlength,
    put_of_fits _ 0 2 u.command.state.code_lt]
  simp only [hmark, pow_zero, mul_one]
  rfl

/-- Settles O19: the word's fields one by one, each part below the next one's place. -/
theorem statusReadReportsAndClears : Obligations.StatusReadReportsAndClears := by
  refine ⟨?answers, rfl, rfl, rfl⟩
  intro s addr i u
  have hexec : exec (.statusRead addr) s = s.answering (u.consoleRead addr) := exec_statusRead addr s
  clear_value u
  intro hopen hoffset hqueue
  have hread : u.consoleRead addr =
      { u with readData := u.statusWord, command := { u.command with protocolError := false } } := by
    rw [consoleRead_control hopen, hoffset]
    rfl
  refine ⟨u.statusWord, by rw [hexec, hread], rfl, ?fields⟩
  rw [statusWord_eq u hqueue]
  have hvolume := u.save.volume.code_lt
  have hchip := chipCode_lt u.chip
  have hstate := u.command.state.code_lt
  have hcoin := u.power.coinLow.toNat_le
  have hload := u.loader.isSome.toNat_le
  have hlow := (u.power.supply == .low).toNat_le
  have herror := u.command.protocolError.toNat_le
  have hoverflow := u.events.overflow.toNat_le
  refine ⟨word_getLsbD (by omega) (by omega), word_getLsbD (by omega) (by omega), ?_,
    word_getLsbD (by omega) (by omega), ?_, word_getLsbD (by omega) (by omega), word_getLsbD (by omega) (by omega),
    ?_, ?_⟩
  all_goals
    rw [word_get _ _ _ (by omega)]
    omega

/-! ## DATA (R43) -/

/-- One word received: it is staged while one is missing, and the last one ends the phase. -/
theorem Load.receive_one (l : Load) (value : Word) (h : l.phase = .receiving) :
    l.receive [value] = { l with
      staged := if l.staged.length < l.count * l.table.entrySize then l.staged ++ [value] else l.staged
      phase := if l.count * l.table.entrySize ≤ l.staged.length + 1 then .checking else .receiving } := by
  unfold Load.receive Load.missing Load.needed
  by_cases hmissing : l.staged.length < l.count * l.table.entrySize
  · obtain ⟨m, hm⟩ : ∃ m, l.count * l.table.entrySize - l.staged.length = m + 1 :=
      ⟨_, (Nat.succ_pred_eq_of_pos (Nat.sub_pos_of_lt hmissing)).symm⟩
    simp [hm, hmissing, h]
  · have hm : l.count * l.table.entrySize - l.staged.length = 0 := by omega
    have h1 : l.count * l.table.entrySize ≤ l.staged.length := by omega
    have h2 : l.count * l.table.entrySize ≤ l.staged.length + 1 := by omega
    simp [hm, hmissing, h1, h2]

theorem dataWord_receives {u : Ef24} {l : Load} (value : Word) (hload : u.loader = some l) (h : l.phase = .receiving) :
    u.dataWord value = { u with loader := some (l.receive [value]) } := by
  rw [Ef24.dataWord, hload]
  exact if_pos h

theorem dataWord_lost {u : Ef24} (value : Word) (h : ∀ l, u.loader = some l → l.phase ≠ .receiving) :
    u.dataWord value = { u with command := { u.command with protocolError := true } } := by
  rw [Ef24.dataWord]
  cases hload : u.loader with
  | none => rfl
  | some l => exact if_neg (h l hload)

/-- Settles O20: by whether a load in RECEIVING takes the word. -/
theorem dataWriteFeedsLoad : Obligations.DataWriteFeedsLoad := by
  intro s addr value i u
  have hexec : exec (.dataWrite addr value) s = s.answering (u.consoleWrite addr value) :=
    exec_dataWrite addr value s
  clear_value u
  intro hopen hoffset
  have hwrite : u.consoleWrite addr value = u.dataWord value := by
    rw [consoleWrite_control hopen, hoffset]
    rfl
  rw [hexec, hwrite]
  refine ⟨fun l hload hphase => ?receives, fun hphase => ?lost⟩
  case receives => rw [dataWord_receives value hload hphase, l.receive_one value hphase]
  case lost => rw [dataWord_lost value hphase]

/-! ## The checks of a frame (R34) -/

/-- The row of a command runs its frame. -/
theorem exec_frameRow (c : Command) (s : State) : ∃ body, exec (frameRow c) s = runFrame c body s := by
  cases c <;> exact ⟨_, rfl⟩

/-- A named opcode is some command's. -/
theorem opcodeNamed_command {n : Nat} (h : opcodeNamed n = true) : ∃ c : Command, c.opcode = n := by
  have hbound : n < 75 := by
    simp only [opcodeNamed, Bool.or_eq_true, decide_eq_true_iff] at h
    omega
  have hlisted : ∀ n < 75, opcodeNamed n = true →
      n ∈ ([.statusQuery, .tableRead, .loadTable, .loadAbort, .actionRun, .cuePlay, .voiceStop, .soundStopAll,
        .soundVolume, .voiceStatus, .rumbleStart, .rumbleCut, .rumbleEnable, .rumbleLimits, .rumbleStatus, .saveFormat,
        .slotSeed, .slotCommit, .slotDiscard, .slotVerify, .slotInfo, .flagTest, .flagSet, .flagClear, .flagToggle,
        .flagScan, .flagClearRange, .clockSet, .clockRead, .dayStartSet, .gameDayRead, .advanceCapSet, .timerRun,
        .timerStop, .timerClear, .timerRead, .eventTake, .eventMaskSet, .sleep, .wake,
        .supplyRead] : List Command).map Command.opcode := by decide
  obtain ⟨c, -, hc⟩ := List.mem_map.mp (hlisted n hbound h)
  exact ⟨c, hc⟩

/-- A frame that names no command is answered so. -/
theorem answerBadOpcode_unnamed {u : Ef24} (hwaits : u.frameWaits = true)
    (h : ∀ c : Command, c.opcode ≠ u.command.opcode) : u.answerBadOpcode = u.respond .badOpcode [] := by
  have hnamed : opcodeNamed u.command.opcode = false := by
    cases hname : opcodeNamed u.command.opcode with
    | false => rfl
    | true =>
      obtain ⟨c, hc⟩ := opcodeNamed_command hname
      exact absurd hc (h c)
  rw [Ef24.answerBadOpcode, hwaits, hnamed]
  rfl

theorem Status.code_lt (x : Status) : x.code < 64 := by cases x <;> decide

/-- An answer stands in the Response Buffer, header first. -/
theorem respond_header (u : Ef24) (status : Status) (results : List Word) (h : results.length ≤ 31) :
    u.respond status results = { u with command := { u.command with
      state := .responding, frame := [], expected := 0, taken := 0
      response := BitVec.ofNat 16 (status.code * 256 + results.length) :: results } } := by
  have hcode := status.code_lt
  unfold Ef24.respond word
  rw [put_of_fits _ 8 8 (by omega), put_of_fits _ 0 8 (by omega), pow_zero, mul_one]
  rfl

theorem takenAsleep_iff (c : Command) : c.takenAsleep = true ↔
    c ∈ [Command.wake, .statusQuery, .eventTake, .eventMaskSet, .clockRead, .gameDayRead, .supplyRead, .slotInfo] := by
  cases c <;> decide

/-- When a frame waits: the core runs, the unit is in EXECUTING, and no flag operation of the command is in the list. -/
theorem frameWaits_iff (u : Ef24) : u.frameWaits = true ↔
    u.coreRunning = true ∧ u.command.state = .executing ∧ ∀ op ∈ u.save.flags, op.fromCommand = false := by
  simp [Ef24.frameWaits, Ef24.awaitsFlag, and_assoc]

theorem executes_iff (u : Ef24) (c : Command) :
    u.executes c = true ↔ u.frameWaits = true ∧ u.command.opcode = c.opcode := by
  simp [Ef24.executes]

/-- The opcode is the high byte of the header. -/
theorem opcode_eq (u : Ef24) : u.command.opcode = (u.command.frame.getD 0 0).toNat / 256 := by
  have hbound := (u.command.frame.getD 0 0).isLt
  unfold CommandUnit.opcode imageWord Field.get
  exact Nat.mod_eq_of_lt (by omega)

/-- The argument count is the low byte of the header. -/
theorem argCount_eq (u : Ef24) : u.command.argCount = (u.command.frame.getD 0 0).toNat % 256 :=
  congrArg (· % 256) (Nat.div_one (u.command.frame.getD 0 0).toNat)

/-- Settles O21: the three checks in their order, the answer's form, the tables of section 13.2, the frame's fields. -/
theorem frameChecksInOrder : Obligations.FrameChecksInOrder := by
  refine ⟨?checks, respond_header, ?counts, takenAsleep_iff, fun u => ?fields⟩
  case checks =>
    intro s u
    refine ⟨fun hwaits hopcode => ?unnamed, fun c hexec => ⟨fun hcount => ?badLength, fun hcount hchip htaken => ?asleep⟩⟩
    case unnamed =>
      rw [exec_badOpcode]
      exact congrArg s.answering (answerBadOpcode_unnamed hwaits hopcode)
    case badLength =>
      obtain ⟨body, hbody⟩ := exec_frameRow c s
      rw [hbody, runFrame_badLength body hexec hcount]
    case asleep =>
      obtain ⟨body, hbody⟩ := exec_frameRow c s
      rw [hbody, runFrame_asleep body hexec hcount hchip htaken]
  case counts =>
    intro x hx
    fin_cases hx <;> refine ⟨rfl, fun n => ?_⟩ <;> simp [Command.accepts] <;> omega
  case fields =>
    exact ⟨opcode_eq u, argCount_eq u, fun i => rfl, frameWaits_iff u, executes_iff u⟩

end Sys2Proof.Machine
end

section
/-! PROOFS. The Table Loader's and Action Dispatcher's frames, and the walk of a chain (Chapters 3 and 4). -/

namespace Sys2Proof.Machine

/-! ## LOAD TABLE and LOAD ABORT (R42, R46) -/

section
variable {u : Ef24} {t : TableId}

theorem loadTable_enteringSleep (hchip : u.chip = some .enteringSleep) : u.loadTable = u.respond .asleep [] :=
  if_pos hchip

/-- An argument that names no table, no source or no entry is refused. -/
theorem loadTable_badArg (hchip : u.chip ≠ some .enteringSleep)
    (hbad : tableOfId (u.arg 0) = none ∨ 2 ≤ u.arg 3 % 256 ∨ u.arg 2 = 0) : u.loadTable = u.respond .badArg [] := by
  rw [Ef24.loadTable, if_neg hchip]
  cases hid : tableOfId (u.arg 0) with
  | none => rfl
  | some t =>
    have hbad : 2 ≤ u.arg 3 % 256 ∨ u.arg 2 = 0 := by simpa [hid] using hbad
    exact if_pos hbad

/-- The later checks, for arguments that name a table, a source and an entry. -/
theorem loadTable_named (hchip : u.chip ≠ some .enteringSleep) (hid : tableOfId (u.arg 0) = some t)
    (hsource : u.arg 3 % 256 < 2) (hcount : u.arg 2 ≠ 0) :
    u.loadTable =
      if t.entries < u.arg 1 + u.arg 2 then u.respond .outOfRange []
      else if u.arg 3 % 256 = 1 ∧ Config.romWords u.romCode < u.loadAddress + u.arg 2 * t.entrySize then
        u.respond .outOfRange []
      else if u.loader ≠ none then u.respond .busy []
      else (u.beginLoad t (if u.arg 3 % 256 = 1 then some u.loadAddress else none)).respond .accepted [] := by
  rw [Ef24.loadTable, if_neg hchip, hid]
  dsimp only
  rw [if_neg (by omega)]
  simp only [Option.isSome_iff_ne_none]

/-- The load record a LOAD TABLE frame begins. -/
theorem beginLoad_eq (u : Ef24) (t : TableId) (address : Nat) (fromRom : Prop) [Decidable fromRom] :
    u.beginLoad t (if fromRom then some address else none) =
      let load : Load :=
        { phase := if fromRom then .fetching else .receiving, table := t, first := u.arg 1, count := u.arg 2,
          source := if fromRom then some address else none, staged := [] }
      { u with loader := some load } := by
  unfold Ef24.beginLoad
  by_cases h : fromRom
  · simp only [if_pos h]; rfl
  · simp only [if_neg h]; rfl

end

/-- Settles O24: the refusals in their order, then the record. -/
theorem loadTableStartsLoad : Obligations.LoadTableStartsLoad := by
  intro s u fromRom address load hpasses
  have hexec : exec .loadTable s = s.answering u.loadTable := (exec_loadTable s).trans (runFrame_passes _ hpasses)
  rw [hexec]
  clear_value u
  refine ⟨fun hchip => ?asleep, fun hchip hbad => ?badArg, fun t hchip hid hsource hcount => ?named⟩
  case asleep => rw [loadTable_enteringSleep hchip]
  case badArg => rw [loadTable_badArg hchip hbad]
  case named =>
    rw [loadTable_named hchip hid hsource hcount, beginLoad_eq, Config.romWords, Nat.mul_comm _ 2048]
    rfl

theorem loadOpen_iff (u : Ef24) : u.loadOpen = true ↔ ∃ l, u.loader = some l ∧ l.phase ≠ .checking := by
  unfold Ef24.loadOpen
  cases u.loader <;> simp

/-- Settles O25: by whether a load is open. -/
theorem loadAbortEndsOpenLoad : Obligations.LoadAbortEndsOpenLoad := by
  intro s u hpasses
  have hexec : exec .loadAbort s = s.answering u.loadAbort := (exec_loadAbort s).trans (runFrame_passes _ hpasses)
  rw [hexec, Ef24.loadAbort, Ef24.abortLoad]
  clear_value u
  refine ⟨fun l hload hphase => ?opened, fun hchecking => ?closed⟩
  case opened =>
    have hopen : u.loadOpen = true :=
      (loadOpen_iff u).mpr ⟨l, hload, by rcases hphase with h | h <;> rw [h] <;> decide⟩
    rw [if_pos hopen, if_pos hopen]
    rfl
  case closed =>
    have hopen : ¬ u.loadOpen = true := by
      rw [loadOpen_iff]
      rintro ⟨l, hload, hphase⟩
      exact hphase (hchecking l hload)
    rw [if_neg hopen, if_neg hopen]

/-- Settles O26. -/
theorem actionRunDispatches : Obligations.ActionRunDispatches := by
  intro s u hpasses
  exact (exec_actionRun s).trans (runFrame_passes _ hpasses)

/-! ## The walk of a chain (R54, R55, R58) -/

theorem ActionCause.code_lt (x : ActionCause) : x.code < 4 := by cases x <;> decide

theorem DispatchSource.code_lt (x : DispatchSource) : x.code < 4 := by cases x <;> decide

/-- ACTION_FAULT's detail, field by field. -/
theorem actionFault_detail (u : Ef24) (cause : ActionCause) (n : Nat) (source : DispatchSource) (first : Nat) :
    u.actionFault cause n source first =
      u.post .actionFault n (cause.code * 16384 + source.code * 4096 + first % 64) := by
  unfold Ef24.actionFault
  rw [put_of_fits _ 14 2 cause.code_lt, put_of_fits _ 12 2 source.code_lt, put_bottom]
  rfl

/-- An INVALID action, or a code that names no kind, ends the walk. -/
theorem walk_invalid {u : Ef24} {n : Nat} (source : DispatchSource) (first left : Nat)
    (h : (u.action n).kindNamed = none ∨ (u.action n).kindNamed = some .invalid) :
    Ef24.walk source first (left + 1) n u = u.actionFault .invalid n source first := by
  rcases h with h | h <;> rw [Ef24.walk, h]

/-- Any other action is visited, and the walk goes on at its next, if it has one. -/
theorem walk_visits {u : Ef24} {n : Nat} {kind : ActionKind} (source : DispatchSource) (first left : Nat)
    (hkind : (u.action n).kindNamed = some kind) (hvalid : kind ≠ .invalid) :
    Ef24.walk source first (left + 1) n u =
      if (u.action n).next = 0xFFFF then u.visit source first n (u.action n) kind
      else Ef24.walk source first left (u.action n).next.toNat (u.visit source first n (u.action n) kind) := by
  rw [Ef24.walk, hkind]
  by_cases hnext : (u.action n).next = 0xFFFF
  · have hnone : optionalWord (u.action n).next = none := if_pos hnext
    rw [if_pos hnext, hnone]
    cases kind with
    | invalid => contradiction
    | _ => rfl
  · have hsome : optionalWord (u.action n).next = some (u.action n).next.toNat := if_neg hnext
    rw [if_neg hnext, hsome]
    cases kind with
    | invalid => contradiction
    | _ => rfl

/-! ## The requests an action hands on (R50, R56, R135) -/

/-- A play of an empty cue is refused, whatever the voices. -/
theorem request_unplayable {x : Sound} {cue : Nat} (request : Option Nat) (allowed : Bool)
    (h : (x.cue cue).length = 0) : x.request cue request allowed = (x, [], .unplayable) := by
  have hempty : (x.cue cue).isEmpty = true := by rw [CueEntry.isEmpty, h]; rfl
  rw [Sound.request, if_pos hempty]

/-- A play finds no voice: none may be allocated, or none is. -/
theorem request_noVoice {x : Sound} {cue : Nat} {request : Option Nat} {allowed : Bool}
    (hlength : (x.cue cue).length ≠ 0)
    (h : allowed = false ∨ x.allocate (raised (x.cue cue).priority.toNat request) = none) :
    x.request cue request allowed = (x, [], .noVoice (raised (x.cue cue).priority.toNat request)) := by
  have hempty : ¬ (x.cue cue).isEmpty = true := by simpa [CueEntry.isEmpty] using hlength
  rw [Sound.request, if_neg hempty]
  cases allowed with
  | false => rfl
  | true =>
    have hnone : x.allocate (raised (x.cue cue).priority.toNat request) = none := by simpa using h
    dsimp only
    rw [hnone]
    rfl

/-- The play an accepted request makes (R67, R68). -/
def Sound.playOf (x : Sound) (cue priority : Nat) : Play :=
  { cue := cue, entry := x.cue cue, priority := priority, order := x.nextOrder }

/-- An accepted play is placed on the voice allocated. -/
theorem request_placed {x : Sound} {cue : Nat} {request : Option Nat} {a : Allocation}
    (hlength : (x.cue cue).length ≠ 0)
    (h : x.allocate (raised (x.cue cue).priority.toNat request) = some a) :
    x.request cue request true =
      let placed := { x with nextOrder := x.nextOrder + 1 }.place
        (x.playOf cue (raised (x.cue cue).priority.toNat request)) a
      (placed.1, placed.2, .accepted a.voice) := by
  have hempty : ¬ (x.cue cue).isEmpty = true := by simpa [CueEntry.isEmpty] using hlength
  rw [Sound.request, if_neg hempty]
  dsimp only
  rw [h]
  rfl

/-- A sampled cue's play on a FREE voice primes it. -/
theorem place_free_sampled (x : Sound) {p : Play} (i : Nat) (h : p.entry.isTone = false) :
    x.place p (.free i) = (x.withVoice i ((x.voice i).prime p), []) := by
  rw [Sound.place, Voice.begin, h]
  rfl

/-- A TONE's play on a FREE voice plays at once. -/
theorem place_free_tone (x : Sound) {p : Play} (i : Nat) (h : p.entry.isTone = true) :
    x.place p (.free i) =
      (x.withVoice i (((x.voice i).prime p).enterPlaying i).1, (((x.voice i).prime p).enterPlaying i).2) := by
  rw [Sound.place, Voice.begin, h]
  rfl

section
variable {u : Ef24} {cue : Nat} {request : Option Nat}

/-- Voices are allocated in RUN only (R68). -/
theorem playsOpen_iff (u : Ef24) : u.playsOpen = true ↔ u.chip = some .run := by
  simp [Ef24.playsOpen]

theorem playCueAction_unplayable (h : (u.sound.cue cue).length = 0) :
    u.playCueAction cue request = u.post .cueRefused cue 0 := by
  rw [Ef24.playCueAction, request_unplayable request u.playsOpen h]
  rfl

theorem playCueAction_noVoice (hlength : (u.sound.cue cue).length ≠ 0)
    (h : u.chip ≠ some .run ∨ u.sound.allocate (raised (u.sound.cue cue).priority.toNat request) = none) :
    u.playCueAction cue request =
      u.post .cueRefused cue (256 + raised (u.sound.cue cue).priority.toNat request % 8) := by
  have hclosed : u.playsOpen = false ∨ u.sound.allocate (raised (u.sound.cue cue).priority.toNat request) = none := by
    rwa [← Bool.not_eq_true, playsOpen_iff]
  rw [Ef24.playCueAction, request_noVoice hlength hclosed]
  dsimp only
  rw [Ef24.refuseCue, put_bottom]
  rfl

theorem playCueAction_placed {a : Allocation} (hlength : (u.sound.cue cue).length ≠ 0) (hrun : u.chip = some .run)
    (h : u.sound.allocate (raised (u.sound.cue cue).priority.toNat request) = some a) :
    u.playCueAction cue request = u.withSound ({ u.sound with nextOrder := u.sound.nextOrder + 1 }.place
      (u.sound.playOf cue (raised (u.sound.cue cue).priority.toNat request)) a) := by
  rw [Ef24.playCueAction, (playsOpen_iff u).mpr hrun, request_placed hlength h]
  rfl

end

/-- The priority an action's operand B raises; FFFFh is none (R56). -/
theorem raised_optionalWord (own : Nat) (w : Word) :
    raised own (optionalWord w) = if w = 0xFFFF then own else max own w.toNat := by
  unfold optionalWord noneWord
  split <;> rfl

/-- Settles O27: the walk by the visits left and the kind found; the faulting operands; each kind's request. -/
theorem dispatchWalksChain : Obligations.DispatchWalksChain := by
  refine ⟨?walk, ?faults, ?requests⟩
  case walk =>
    intro u source first n left detail
    refine ⟨rfl, actionFault_detail .., fun h => ?invalid, fun kind hkind hvalid => ?visits⟩
    case invalid => rw [walk_invalid source first left h, actionFault_detail]; rfl
    case visits => rw [walk_visits source first left hkind hvalid, Ef24.visit, actionFault_detail]; rfl
  case faults =>
    intro e a b
    have hzero : e.operandB = 0 ↔ b = 0 := by
      rw [← BitVec.toNat_inj]
      rfl
    refine ⟨decide_eq_true_iff, decide_eq_true_iff, decide_eq_true_iff, decide_eq_true_iff, decide_eq_true_iff, ?_, ?_⟩
    · rw [ActionEntry.operandsFault, Bool.or_eq_true, Bool.or_eq_true, decide_eq_true_iff, decide_eq_true_iff,
        decide_eq_true_iff, hzero, or_assoc]
    · intro kind hkind
      fin_cases hkind <;> rfl
  case requests =>
    intro u n e a raise cue play refused placed flag
    have hraise : ∀ own, raised own (optionalWord e.operandB) = raise own := fun own => raised_optionalWord own _
    have hplay : u.request n e .playCue = (u.playCueAction a (optionalWord e.operandB)).updateRomPort := rfl
    have hpriority : raised cue.priority.toNat (optionalWord e.operandB) = play.priority := hraise _
    refine ⟨fun hempty => ?empty, fun hlength h => ?noVoice, fun i hlength hrun => ⟨fun hfree htone => ?sampled,
      fun hfree htone => ?tone, fun h => ?releasing, fun h => ?steal⟩, rfl, rfl, ?rumble, rfl, rfl, rfl, rfl, rfl⟩
    case empty => rw [hplay, playCueAction_unplayable hempty]
    case noVoice =>
      rw [← hpriority] at h
      rw [hplay, playCueAction_noVoice hlength h, hpriority]
    case sampled =>
      rw [← hpriority] at hfree
      rw [hplay, playCueAction_placed hlength hrun hfree, place_free_sampled _ i htone, hpriority]
      rfl
    case tone =>
      rw [← hpriority] at hfree
      rw [hplay, playCueAction_placed hlength hrun hfree, place_free_tone _ i htone, hpriority]
      rfl
    case releasing =>
      rw [← hpriority] at h
      rw [hplay, playCueAction_placed hlength hrun h, hpriority]
      rfl
    case steal =>
      rw [← hpriority] at h
      rw [hplay, playCueAction_placed hlength hrun h, hpriority]
      rfl
    case rumble => rw [← hraise]; rfl

end Sys2Proof.Machine
end

section
/-! PROOFS. The sound commands (Chapter 5): how a play gets its voice, and what CUE PLAY answers (R68 to R71, R82). -/

namespace Sys2Proof.Machine

/-! ## The voice a play gets (R68) -/

section
variable (x : Sound) (priority : Nat)

/-- The lowest voice with a property, among the six. -/
theorem find_voice_iff {p : Nat → Bool} {P : Nat → Prop} (h : ∀ i, p i = true ↔ P i) :
    (∀ i, voiceNumbers.find? p = some i ↔ (i < 6 ∧ P i) ∧ ∀ j, (j < 6 ∧ P j) → i ≤ j) ∧
      (voiceNumbers.find? p = none ↔ ∀ j, ¬ (j < 6 ∧ P j)) := by
  have hsorted : voiceNumbers.Pairwise (· < ·) := by decide
  refine ⟨fun i => ?_, ?_⟩
  · simp only [find_lowest_iff hsorted, mem_voiceNumbers, h]
  · simp only [List.find?_eq_none, mem_voiceNumbers, h, not_and]

/-- The FREE voice a play would get. -/
def Sound.freeVoice : Option Nat := voiceNumbers.find? (fun i => (x.voice i).state == .free)

/-- The RELEASING voice without a next cue a play would get. -/
def Sound.openVoice : Option Nat := voiceNumbers.find? (fun i => (x.voice i).state == .releasing && (x.voice i).next.isNone)

/-- The voice a play would steal. -/
def Sound.weakVoice : Option Nat := (voiceNumbers.filter (x.stealable priority)).foldl x.betterSteal none

/-- The three choices in their order. -/
theorem allocate_eq : x.allocate priority =
    match x.freeVoice with
    | some i => some (.free i)
    | none => match x.openVoice with
      | some i => some (.releasing i)
      | none => (x.weakVoice priority).map .steal := rfl

theorem freeVoice_iff :
    (∀ i, x.freeVoice = some i ↔ (i < 6 ∧ (x.voice i).state = .free) ∧ ∀ j, (j < 6 ∧ (x.voice j).state = .free) → i ≤ j) ∧
      (x.freeVoice = none ↔ ∀ j, ¬ (j < 6 ∧ (x.voice j).state = .free)) :=
  find_voice_iff fun i => by simp

theorem openVoice_iff :
    (∀ i, x.openVoice = some i ↔ (i < 6 ∧ (x.voice i).state = .releasing ∧ (x.voice i).next = none) ∧
      ∀ j, (j < 6 ∧ (x.voice j).state = .releasing ∧ (x.voice j).next = none) → i ≤ j) ∧
      (x.openVoice = none ↔ ∀ j, ¬ (j < 6 ∧ (x.voice j).state = .releasing ∧ (x.voice j).next = none)) :=
  find_voice_iff fun i => by simp

/-- The voices that may be stolen. -/
theorem mem_stealable (i : Nat) : i ∈ voiceNumbers.filter (x.stealable priority) ↔
    i < 6 ∧ ((x.voice i).state = .priming ∨ (x.voice i).state = .playing) ∧ (x.voice i).play.priority ≤ priority := by
  rw [List.mem_filter, mem_voiceNumbers, Sound.stealable, Bool.and_eq_true, live_iff, decide_eq_true_iff]

theorem weakVoice_none_iff : x.weakVoice priority = none ↔ ∀ j, ¬ (j < 6 ∧
    ((x.voice j).state = .priming ∨ (x.voice j).state = .playing) ∧ (x.voice j).play.priority ≤ priority) := by
  simp only [Sound.weakVoice, betterSteal_fold_none, and_true, List.eq_nil_iff_forall_not_mem, mem_stealable]

end

/-- Settles O29: the three searches in their order. -/
theorem allocationPrefersFreeThenReleasingThenWeakest : Obligations.AllocationPrefersFreeThenReleasingThenWeakest := by
  intro x priority free open_ weak weaker
  obtain ⟨hfree, hnoFree⟩ := freeVoice_iff x
  obtain ⟨hopen, hnoOpen⟩ := openVoice_iff x
  have hnoWeak := weakVoice_none_iff x priority
  rw [allocate_eq]
  refine ⟨fun i => ?free, fun i => ?releasing, fun i h => ?steal, fun h1 h2 h3 => ?stolen, ?none⟩
  case free =>
    rw [← hfree]
    cases x.freeVoice with
    | some j => simp
    | none => cases x.openVoice <;> simp
  case releasing =>
    rw [← hopen, ← hnoFree]
    cases x.freeVoice with
    | some j => simp
    | none => cases x.openVoice <;> simp
  case steal =>
    have hall : x.freeVoice = none ∧ x.openVoice = none ∧ x.weakVoice priority = some i := by
      revert h
      cases x.freeVoice with
      | some j => simp
      | none => cases x.openVoice <;> simp
    obtain ⟨h1, h2, hweak⟩ := hall
    obtain ⟨hmem, hleast⟩ := betterSteal_fold x _ none i hweak
    refine ⟨hnoFree.mp h1, hnoOpen.mp h2, ?_, fun j hj => hleast j (Or.inl ((mem_stealable x priority j).mpr hj))⟩
    rcases hmem with hmem | hmem
    · exact (mem_stealable x priority i).mp hmem
    · cases hmem
  case stolen =>
    rw [hnoFree.mpr h1, hnoOpen.mpr h2]
    cases hweak : x.weakVoice priority with
    | some i => exact ⟨i, rfl⟩
    | none =>
      obtain ⟨j, hj⟩ := h3
      exact absurd hj (hnoWeak.mp hweak j)
  case none =>
    rw [← hnoFree, ← hnoOpen, ← hnoWeak]
    cases x.freeVoice with
    | some j => simp
    | none => cases x.openVoice <;> simp

/-! ## What a voice does when it plays and when it is stolen (R69 to R71, R78) -/

theorem CueCause.code_lt (c : CueCause) : c.code < 4 := by cases c <;> decide

/-- CUE_END's detail: the cause above the underrun count, which is cut at 16,383. -/
theorem endPost_eq (p : Play) (cause : CueCause) (underruns : Nat) :
    p.endPost cause underruns =
      if p.entry.notify = true then [.post .cueEnd p.cue (cause.code * 16384 + min underruns 16383)] else [] := by
  have hcount : min underruns 16383 < 2 ^ 14 := by omega
  unfold Play.endPost
  rw [put_of_fits _ 14 2 cause.code_lt, put_of_fits _ 0 14 hcount, pow_zero, mul_one]
  rfl

theorem release_eq (v : Voice) (i : Nat) (cause : CueCause) :
    v.release i cause =
      ({ v with state := .releasing, buffer := [], held := none, linked := false, elapsed := 0 },
        (if v.play.entry.notify = true then
          [.post .cueEnd v.play.cue (cause.code * 16384 + min v.underruns 16383)] else []) ++
          if v.linked = true then [.stopped i] else []) := by
  unfold Voice.release Voice.stopReport
  rw [endPost_eq]

/-- A cue with no linked pattern only plays. -/
theorem enterPlaying_unlinked {v : Voice} (i : Nat) (h : v.play.entry.linked = 255) :
    v.enterPlaying i = ({ v with state := .playing, elapsed := 0, phase := 0 }, []) := by
  have hnone : v.play.entry.linkedPattern = none := if_pos h
  rw [Voice.enterPlaying, hnone]

/-- A linked pattern is submitted as the cue begins to play. -/
theorem enterPlaying_linked {v : Voice} (i : Nat) (h : v.play.entry.linked ≠ 255) :
    v.enterPlaying i = ({ v with state := .playing, elapsed := 0, phase := 0, linked := true },
      [.link i v.play.entry.linked.toNat v.play.priority]) := by
  have hsome : v.play.entry.linkedPattern = some v.play.entry.linked.toNat := if_neg h
  rw [Voice.enterPlaying, hsome]

/-! ## CUE PLAY (R82) -/

/-- A priority request that the frame gives, and which is above 7. -/
theorem priorityBad_iff (p : Option Nat) : priorityBad p = true ↔ ∃ x, p = some x ∧ 7 < x := by
  cases p <;> simp [priorityBad]

theorem isEmpty_iff (e : CueEntry) : e.isEmpty = true ↔ e.length = 0 := by
  simp [CueEntry.isEmpty]

section
variable {u : Ef24}

theorem cuePlay_badArg (h : (∃ p, u.optionalArg 1 = some p ∧ 7 < p) ∨
    (u.arg 0 < 128 ∧ (u.sound.cue (u.arg 0)).length = 0)) : u.cuePlay = u.respond .badArg [] := by
  rw [← priorityBad_iff, ← isEmpty_iff] at h
  exact if_pos (by simpa using h)

/-- The frames whose arguments pass CUE PLAY's first check. -/
theorem cuePlay_argsGood (hpriority : ∀ p, u.optionalArg 1 = some p → p ≤ 7)
    (hcue : ¬ (u.arg 0 < 128 ∧ (u.sound.cue (u.arg 0)).length = 0)) :
    u.cuePlay =
      if 128 ≤ u.arg 0 then u.respond .outOfRange []
      else
        let x := u.sound.request (u.arg 0) (u.optionalArg 1) u.playsOpen
        (u.withSound (x.1, x.2.1)).answerPlay x.2.2 := by
  have hgood : ¬ priorityBad (u.optionalArg 1) = true := by
    rw [priorityBad_iff]
    rintro ⟨p, hp, hlt⟩
    exact absurd (hpriority p hp) (by omega)
  rw [← isEmpty_iff] at hcue
  exact if_neg (by simpa [hgood] using hcue)

theorem cuePlay_outOfRange (hpriority : ∀ p, u.optionalArg 1 = some p → p ≤ 7) (hcue : 128 ≤ u.arg 0) :
    u.cuePlay = u.respond .outOfRange [] := by
  rw [cuePlay_argsGood hpriority (by omega), if_pos hcue]

variable (hpriority : ∀ p, u.optionalArg 1 = some p → p ≤ 7) (hcue : u.arg 0 < 128)
  (hlength : (u.sound.cue (u.arg 0)).length ≠ 0)
include hpriority hcue hlength

theorem cuePlay_noVoice (h : u.chip ≠ some .run ∨
    u.sound.allocate (raised (u.sound.cue (u.arg 0)).priority.toNat (u.optionalArg 1)) = none) :
    u.cuePlay = u.respond .noVoice [] := by
  rw [ne_eq, ← playsOpen_iff, Bool.not_eq_true] at h
  rw [cuePlay_argsGood hpriority (fun hempty => hlength hempty.2), if_neg (Nat.not_le.mpr hcue),
    request_noVoice hlength h]
  rfl

theorem cuePlay_placed {a : Allocation} (hrun : u.chip = some .run)
    (h : u.sound.allocate (raised (u.sound.cue (u.arg 0)).priority.toNat (u.optionalArg 1)) = some a) :
    u.cuePlay = (u.withSound ({ u.sound with nextOrder := u.sound.nextOrder + 1 }.place
      (u.sound.playOf (u.arg 0) (raised (u.sound.cue (u.arg 0)).priority.toNat (u.optionalArg 1))) a)).respond .ok
        [word a.voice] := by
  rw [cuePlay_argsGood hpriority (fun hempty => hlength hempty.2), if_neg (Nat.not_le.mpr hcue),
    (playsOpen_iff u).mpr hrun, request_placed hlength h]
  rfl

end

/-- Settles O28: the refusals in their order, the three ways a play is placed, then what the voice does. -/
theorem cuePlayAllocatesVoice : Obligations.CuePlayAllocatesVoice := by
  refine ⟨?frames, fun v i p => ⟨rfl, enterPlaying_unlinked i, enterPlaying_linked i, release_eq v i .stolen⟩⟩
  intro s u cue e request priority play placed hpasses
  have hexec : exec .cuePlay s = s.answering u.cuePlay := (exec_cuePlay s).trans (runFrame_passes _ hpasses)
  rw [hexec]
  clear_value u
  refine ⟨fun hbad => ?badArg, fun hpriority hcue => ?outOfRange, fun hpriority hcue hlength =>
    ⟨fun h => ?noVoice, fun i hrun hfree htone => ?sampled, fun i hrun hfree htone => ?tone,
      fun i hrun h => ?releasing, fun i hrun h => ?steal⟩⟩
  case badArg => rw [cuePlay_badArg hbad]
  case outOfRange => rw [cuePlay_outOfRange hpriority hcue]
  case noVoice => rw [cuePlay_noVoice hpriority hcue hlength h]
  case sampled =>
    rw [cuePlay_placed hpriority hcue hlength hrun hfree, place_free_sampled _ i htone]
    rfl
  case tone =>
    rw [cuePlay_placed hpriority hcue hlength hrun hfree, place_free_tone _ i htone]
    rfl
  case releasing =>
    rw [cuePlay_placed hpriority hcue hlength hrun h]
    rfl
  case steal =>
    rw [cuePlay_placed hpriority hcue hlength hrun h]
    rfl

end Sys2Proof.Machine
end

section
/-! PROOFS. The sound commands (Chapter 5): the stops (R77, R78, R83), the volume and the voices' report (R84). -/

namespace Sys2Proof.Machine

/-! ## What a stop does to a voice (R77) -/

section
variable {v : Voice} (i : Nat)

theorem stop_live (h : v.state = .priming ∨ v.state = .playing) : v.stop i = v.release i .stopped := by
  rcases h with h | h <;> rw [Voice.stop, h]

theorem stop_next {p : Play} (hstate : v.state = .releasing) (hnext : v.next = some p) :
    v.stop i = ({ v with next := none }, p.endPost .stopped 0) := by
  rw [Voice.stop, hstate]
  dsimp only
  rw [hnext]

theorem stop_idle (h : v.state = .free ∨ (v.state = .releasing ∧ v.next = none)) : v.stop i = (v, []) := by
  rcases h with h | ⟨hstate, hnext⟩
  · rw [Voice.stop, h]
  · rw [Voice.stop, hstate]
    dsimp only
    rw [hnext]

theorem stoppable_iff (v : Voice) : v.stoppable = true ↔
    v.state = .priming ∨ v.state = .playing ∨ (v.state = .releasing ∧ v.next ≠ none) := by
  rw [Voice.stoppable, Bool.or_eq_true, live_iff, Bool.and_eq_true, beq_iff_eq, Option.isSome_iff_ne_none, or_assoc]

end

/-! ## What the voices ask, in order -/

theorem withSound_append (u : Ef24) (x : Sound) (asks : List SoundEffect) (ask : SoundEffect) :
    u.withSound (x, asks ++ [ask]) = (u.withSound (x, asks)).perform ask :=
  List.foldl_concat ..

/-- An operation on all voices: each voice is changed by it, and what they ask stands in voice order. -/
theorem onAll_voices (x : Sound) (f : Nat → Voice → Voice × List SoundEffect) :
    ∃ voices : Vector Voice 6,
      x.onAll f = ({ x with voices := voices }, voiceNumbers.flatMap (fun i => (f i (x.voice i)).2)) ∧
        ∀ i, i < 6 → Table.get voices i Voice.reset = (f i (x.voice i)).1 := by
  obtain ⟨hasks, hvoice, voices, hsound⟩ :=
    onVoices_fold f voiceNumbers (by decide) (fun i hi => mem_voiceNumbers.mp hi) x []
  refine ⟨voices, Prod.ext hsound hasks, fun i hi => ?_⟩
  have hi := hvoice i
  rw [hsound, if_pos (mem_voiceNumbers.mpr ‹i < 6›)] at hi
  exact hi

/-- What a frame of VOICE STOP does to its voice. -/
theorem onVoice_withSound (u : Ef24) (f : Nat → Voice → Voice × List SoundEffect) (i : Nat) :
    u.onVoice f i = u.withSound ({ u.sound with voices := u.sound.voices.setIfInBounds i (f i (u.sound.voice i)).1 },
      (f i (u.sound.voice i)).2) := rfl

/-- Settles O30: the frames by the voices that can be stopped, then a stop's cases and the operations on all voices. -/
theorem stopsAnswerWhatTheyEnded : Obligations.StopsAnswerWhatTheyEnded := by
  refine ⟨?frames, ?stops, onAll_voices, ?asks, fun x i v => rfl⟩
  case frames =>
    intro s u stopped ends
    have hstop := exec_voiceStop s
    have hall := exec_soundStopAll s
    refine ⟨fun hpasses => ?voiceStop, fun hpasses => ?stopAll⟩
    case voiceStop =>
      rw [hstop.trans (runFrame_passes _ hpasses)]
      change (_ → s.answering u.voiceStop = _) ∧ (_ → s.answering u.voiceStop = _)
      clear_value u
      refine ⟨fun hvoice => ?outOfRange, fun hvoice => ?stopped⟩
      case outOfRange => rw [Ef24.voiceStop, if_pos hvoice]
      case stopped =>
        rw [Ef24.voiceStop, if_neg (Nat.not_le.mpr hvoice), onVoice_withSound]
        simp only [stoppable_iff]
        rfl
    case stopAll =>
      rw [hall.trans (runFrame_passes _ hpasses)]
      change s.answering u.soundStopAll = _
      clear_value u
      have hcount : u.sound.stoppableCount = ([0, 1, 2, 3, 4, 5].filter (fun i => ends i)).length := by
        refine congrArg List.length (List.filter_congr fun i _ => ?_)
        rw [Bool.eq_iff_iff, decide_eq_true_iff]
        exact stoppable_iff _
      rw [Ef24.soundStopAll, hcount]
      rfl
  case stops =>
    intro v i cue ended
    refine ⟨fun h => ?_, fun p hstate hnext => ?_, stop_idle i, ?_⟩
    · rw [stop_live i h, release_eq]
      rfl
    · rw [stop_next i hstate hnext, endPost_eq]
      rfl
    · unfold Voice.stopIfCue
      simp only [live_iff]
  case asks =>
    intro u x asks kind i n m
    exact ⟨rfl, withSound_append .., withSound_append .., withSound_append ..⟩

/-! ## The volume and the voices' report (R84) -/

theorem VoiceState.code_lt (x : VoiceState) : x.code < 4 := by cases x <;> decide

/-- A FREE voice reports position 0. -/
theorem reportedPosition_eq (v : Voice) : v.reportedPosition = if v.state = .free then 0 else v.position := by
  unfold Voice.reportedPosition Voice.inUse
  by_cases h : v.state = .free <;> simp [h]

/-- A voice's three words, field by field (section 13.5). -/
theorem voiceWords_eq (v : Voice) :
    let position := if v.state = .free then 0 else v.position
    v.words =
      [ BitVec.ofNat 16 (v.play.cue % 128 * 256 + (if v.next.isSome then 4 else 0) + v.state.code),
        BitVec.ofNat 16 (position / 65536), BitVec.ofNat 16 position ] := by
  intro position
  unfold Voice.words
  rw [put_of_fits _ 0 2 v.state.code_lt, reportedPosition_eq, pow_zero, mul_one]
  rfl

/-- Settles O31. -/
theorem volumeSetsAndVoicesReport : Obligations.VolumeSetsAndVoicesReport := by
  refine ⟨fun s => ⟨fun hpasses => ?volume, fun hpasses => ?voices⟩, rfl⟩
  case volume => exact (exec_soundVolume s).trans (runFrame_passes _ hpasses)
  case voices =>
    rw [exec_voiceStatus, runFrame_passes _ hpasses, Ef24.voiceStatus, funext fun i => voiceWords_eq _]
    rfl

end Sys2Proof.Machine
end

section
/-! PROOFS. The rumble commands (Chapter 6): what becomes of a submission (R89 to R91, R101). -/

namespace Sys2Proof.Machine

/-! ## A submission, line by line of R90 -/

section
variable {r : Rumble} {q : Request} (c : Nat)

theorem submit_disabled (h : r.enabled = false) : r.submit q c = (r, [], .refused .disabled) := by
  rw [Rumble.submit, if_pos (by simp [h])]

theorem submit_unplayable (h : r.enabled = true) (hplay : r.playable q.pattern = false) :
    r.submit q c = (r, [], .refused .unplayable) := by
  rw [Rumble.submit, if_neg (by simp [h]), if_pos (by simp [hplay])]

variable {p : Playing} (h : r.enabled = true) (hplay : r.playable q.pattern = true) (hp : r.playing = some p)
include h hplay hp

theorem submit_preempts (hlt : p.request.priority < q.priority) :
    r.submit q c = ({ r with nextArrival := r.nextArrival + 1 }.start q c, p.request.cutPost .preempt false, .started) := by
  rw [submit_taken r q c p h hplay hp, if_pos hlt]

variable (hle : q.priority ≤ p.request.priority)
include hle

theorem submit_joins (hroom : r.queue.length < 4) :
    r.submit q c = ({ r with nextArrival := r.nextArrival + 1, queue := joinQueue q r.queue }, [], .queued) := by
  rw [submit_taken r q c p h hplay hp, if_neg (Nat.not_lt.mpr hle), if_pos (show _ < queuePlaces from hroom)]

theorem submit_displaces {d : Request} (hfull : 4 ≤ r.queue.length) (hlow : lowestPriority r.queue < q.priority)
    (hd : displacedOf r.queue = some d) :
    r.submit q c = ({ r with nextArrival := r.nextArrival + 1, queue := joinQueue q (r.queue.erase d) },
      d.cutPost .displaced true, .queued) := by
  rw [submit_taken r q c p h hplay hp, if_neg (Nat.not_lt.mpr hle),
    if_neg (show ¬ _ < queuePlaces from Nat.not_lt.mpr hfull), if_pos hlow, hd]

theorem submit_full (hfull : 4 ≤ r.queue.length) (hlow : q.priority ≤ lowestPriority r.queue) :
    r.submit q c = (r, [], .refused .queueFull) := by
  rw [submit_taken r q c p h hplay hp, if_neg (Nat.not_lt.mpr hle),
    if_neg (show ¬ _ < queuePlaces from Nat.not_lt.mpr hfull), if_neg (Nat.not_lt.mpr hlow)]

end

/-! ## The submission at the chip -/

theorem RumbleRefusal.code_lt (x : RumbleRefusal) : x.code < 4 := by cases x <;> decide

section
variable {u : Ef24} {q : Request} {r : Rumble} {posts : List Posting}

theorem submitRumble_started (h : u.rumble.submit q u.ceiling = (r, posts, .started)) :
    u.submitRumble q = { u with rumble := r }.postAll posts := by
  rw [Ef24.submitRumble, h]
  rfl

theorem submitRumble_queued (h : u.rumble.submit q u.ceiling = (r, posts, .queued)) :
    u.submitRumble q = { u with rumble := r }.postAll posts := by
  rw [Ef24.submitRumble, h]
  rfl

/-- A refusal is posted unless the request is a command's (R90). -/
theorem submitRumble_refused {reason : RumbleRefusal}
    (h : u.rumble.submit q u.ceiling = (u.rumble, [], .refused reason)) :
    u.submitRumble q = if q.source = .command then u
      else u.post .rumbleRefused q.pattern (reason.code * 4096 + q.source.code * 256 + q.priority % 8) := by
  have hpost : q.refusedPost reason =
      (.rumbleRefused, q.pattern, reason.code * 4096 + q.source.code * 256 + q.priority % 8) := by
    unfold Request.refusedPost
    rw [put_of_fits _ 12 2 reason.code_lt, put_of_fits _ 8 2 q.source.code_lt, put_bottom]
    rfl
  rw [Ef24.submitRumble, h]
  dsimp only
  rw [hpost]
  rfl

end

/-! ## RUMBLE START's checks (R101) -/

/-- A request would be refused for a full queue: it preempts nothing and displaces nothing. -/
theorem wouldOverflow_iff (r : Rumble) (priority : Nat) : r.wouldOverflow priority = true ↔
    ∃ p, r.playing = some p ∧ priority ≤ p.request.priority ∧ 4 ≤ r.queue.length ∧
      priority ≤ lowestPriority r.queue := by
  unfold Rumble.wouldOverflow
  cases r.playing with
  | none => simp
  | some p =>
    simp only [Bool.and_eq_true, decide_eq_true_iff, Option.some.injEq, exists_eq_left', and_assoc]
    rfl

/-- A pattern is playable: its step count is in range, and no step of its run is empty. -/
theorem playable_iff (r : Rumble) (n : Nat) : r.playable n = true ↔
    1 ≤ (r.header n).stepCount.toNat ∧ (r.header n).stepCount.toNat ≤ 64 ∧
      ∀ i, i < (r.header n).stepCount.toNat → (r.patternStep n i).duration ≠ 0 := by
  simp [Rumble.playable, upTo, and_assoc]

section
variable {u : Ef24}

theorem rumbleStart_badArg (h : (∃ p, u.optionalArg 1 = some p ∧ 7 < p) ∨
    (u.arg 0 < 32 ∧ u.rumble.playable (u.arg 0) = false)) : u.rumbleStart = u.respond .badArg [] := by
  rw [← priorityBad_iff] at h
  exact if_pos (by simpa using h)

/-- The frames whose arguments pass RUMBLE START's first check. -/
theorem rumbleStart_argsGood (hpriority : ∀ p, u.optionalArg 1 = some p → p ≤ 7)
    (hpattern : ¬ (u.arg 0 < 32 ∧ u.rumble.playable (u.arg 0) = false)) :
    u.rumbleStart =
      if 32 ≤ u.arg 0 then u.respond .outOfRange []
      else if u.chip = some .enteringSleep then u.respond .asleep []
      else if u.rumble.wouldOverflow u.startPriority then u.respond .busy []
      else if !u.rumble.enabled then u.respond .disabled []
      else (u.submitRumble u.startRequest).answerStart (u.rumble.submit u.startRequest u.ceiling).2.2 := by
  have hgood : ¬ priorityBad (u.optionalArg 1) = true := by
    rw [priorityBad_iff]
    rintro ⟨p, hp, hlt⟩
    exact absurd (hpriority p hp) (by omega)
  exact if_neg (by simpa [hgood] using hpattern)

theorem rumbleStart_outOfRange (hpriority : ∀ p, u.optionalArg 1 = some p → p ≤ 7) (hpattern : 32 ≤ u.arg 0) :
    u.rumbleStart = u.respond .outOfRange [] := by
  rw [rumbleStart_argsGood hpriority (by omega), if_pos hpattern]

variable (hpriority : ∀ p, u.optionalArg 1 = some p → p ≤ 7) (hpattern : u.arg 0 < 32)
  (hplay : u.rumble.playable (u.arg 0) = true)
include hpriority hpattern hplay

/-- The frames whose arguments are all good. -/
theorem rumbleStart_checked :
    u.rumbleStart =
      if u.chip = some .enteringSleep then u.respond .asleep []
      else if u.rumble.wouldOverflow u.startPriority then u.respond .busy []
      else if !u.rumble.enabled then u.respond .disabled []
      else (u.submitRumble u.startRequest).answerStart (u.rumble.submit u.startRequest u.ceiling).2.2 := by
  rw [rumbleStart_argsGood hpriority (fun h => by simp [hplay] at h), if_neg (Nat.not_le.mpr hpattern)]

theorem rumbleStart_asleep (hchip : u.chip = some .enteringSleep) : u.rumbleStart = u.respond .asleep [] := by
  rw [rumbleStart_checked hpriority hpattern hplay, if_pos hchip]

variable (hchip : u.chip ≠ some .enteringSleep)
include hchip

theorem rumbleStart_busy (hfull : u.rumble.wouldOverflow u.startPriority = true) :
    u.rumbleStart = u.respond .busy [] := by
  rw [rumbleStart_checked hpriority hpattern hplay, if_neg hchip, if_pos hfull]

theorem rumbleStart_disabled (hroom : u.rumble.wouldOverflow u.startPriority = false)
    (henabled : u.rumble.enabled = false) : u.rumbleStart = u.respond .disabled [] := by
  rw [rumbleStart_checked hpriority hpattern hplay, if_neg hchip, if_neg (by simp [hroom]), if_pos (by simp [henabled])]

/-- A request the Drive would take is submitted, and the frame answers what became of it. -/
theorem rumbleStart_submits (henabled : u.rumble.enabled = true)
    (hroom : ∀ p, u.rumble.playing = some p → u.startPriority ≤ p.request.priority → 4 ≤ u.rumble.queue.length →
      lowestPriority u.rumble.queue < u.startPriority) :
    u.rumbleStart = (u.submitRumble u.startRequest).answerStart (u.rumble.submit u.startRequest u.ceiling).2.2 := by
  have hfull : ¬ u.rumble.wouldOverflow u.startPriority = true := by
    rw [wouldOverflow_iff]
    rintro ⟨p, hp, hle, hlength, hlow⟩
    exact absurd (hroom p hp hle hlength) (Nat.not_lt.mpr hlow)
  rw [rumbleStart_checked hpriority hpattern hplay, if_neg hchip, if_neg hfull, if_neg (by simp [henabled])]

end

/-! ## The queue (R90, R91) -/

/-- The lowest priority of a queue of priorities within range is that of a request in it. -/
theorem lowestPriority_spec {queue : List Request} (hne : queue ≠ []) (hrange : ∀ x ∈ queue, x.priority ≤ 7) :
    (∀ x ∈ queue, lowestPriority queue ≤ x.priority) ∧ ∃ x ∈ queue, x.priority = lowestPriority queue := by
  obtain ⟨-, hall, hleast⟩ := lowestPriority_fold queue 7
  refine ⟨hall, ?_⟩
  rcases hleast with hseven | hfound
  · obtain ⟨x, hx⟩ := List.exists_mem_of_ne_nil queue hne
    exact ⟨x, hx, le_antisymm ((hrange x hx).trans_eq hseven.symm) (hall x hx)⟩
  · exact hfound

/-- The request displaced is the latest arrival of the lowest priority. -/
theorem displacedOf_spec {queue : List Request} (hne : queue ≠ []) (hrange : ∀ x ∈ queue, x.priority ≤ 7) :
    ∃ d ∈ queue, displacedOf queue = some d ∧ d.priority = lowestPriority queue ∧
      ∀ x ∈ queue, x.priority = lowestPriority queue → x.arrival ≤ d.arrival := by
  obtain ⟨-, x, hx, hlow⟩ := lowestPriority_spec hne hrange
  have hmem : ∀ y, y ∈ queue.filter (fun x => x.priority = lowestPriority queue) ↔
      y ∈ queue ∧ y.priority = lowestPriority queue := by
    intro y
    rw [List.mem_filter, decide_eq_true_iff]
  obtain ⟨d, hd, hin, hlatest⟩ := laterArrival_fold (queue.filter (fun x => x.priority = lowestPriority queue)) none
    (Or.inl (List.ne_nil_of_mem ((hmem x).mpr ⟨hx, hlow⟩)))
  rcases hin with hin | hin
  · obtain ⟨hqueue, hpriority⟩ := (hmem d).mp hin
    exact ⟨d, hqueue, hd, hpriority, fun y hy hylow => hlatest y (Or.inl ((hmem y).mpr ⟨hy, hylow⟩))⟩
  · cases hin

/-- Settles O32: RUMBLE START's refusals in their order and the lines of R90 for a request taken; then the queue, the posts, and
the same lines for any submission. -/
theorem rumbleStartStartsOrQueues : Obligations.RumbleStartStartsOrQueues := by
  refine ⟨?frames, ?queue, wouldOverflow_iff, fun r q ceiling => rfl, ?cuts, ?submissions, fun r n i => rfl,
    playable_iff, fun own p => ⟨rfl, rfl⟩⟩
  case frames =>
    intro s u r pattern request q counted hpasses
    have hexec : exec .rumbleStart s = s.answering u.rumbleStart :=
      (exec_rumbleStart s).trans (runFrame_passes _ hpasses)
    rw [hexec]
    clear_value u
    refine ⟨fun hbad => ?badArg, fun hpriority hpattern => ?outOfRange, fun hpriority hpattern hplay =>
      ⟨fun hchip => ?asleep, fun hchip hfull => ?busy, fun hchip hroom henabled => ?disabled,
        fun hchip henabled hnone => ?starts, fun p hchip henabled hp hlt => ?preempts,
        fun p hchip henabled hp hle hroom => ?joins, fun p d hchip henabled hp hle hfull hlow hd => ?displaces⟩⟩
    case badArg => rw [rumbleStart_badArg hbad]
    case outOfRange => rw [rumbleStart_outOfRange hpriority hpattern]
    case asleep => rw [rumbleStart_asleep hpriority hpattern hplay hchip]
    case busy => rw [rumbleStart_busy hpriority hpattern hplay hchip hfull]
    case disabled => rw [rumbleStart_disabled hpriority hpattern hplay hchip hroom henabled]
    case starts =>
      have hsubmit := submit_free u.rumble u.startRequest u.ceiling henabled hplay hnone
      rw [rumbleStart_submits hpriority hpattern hplay hchip henabled 
          (fun p hp => absurd (hnone.symm.trans hp) (Option.some_ne_none p).symm),
        submitRumble_started hsubmit, hsubmit]
      rfl
    case preempts =>
      have hsubmit := submit_preempts (r := u.rumble) (q := u.startRequest) u.ceiling henabled hplay hp hlt
      rw [rumbleStart_submits hpriority hpattern hplay hchip henabled
          (fun x hx hle => absurd (Option.some.inj (hx.symm.trans hp) ▸ hle) (Nat.not_le.mpr hlt)),
        submitRumble_started hsubmit, hsubmit]
      rfl
    case joins =>
      have hsubmit := submit_joins (r := u.rumble) (q := u.startRequest) u.ceiling henabled hplay hp hle hroom
      rw [rumbleStart_submits hpriority hpattern hplay hchip henabled
          (fun x hx _ hfull => absurd hroom (Nat.not_lt.mpr hfull)),
        submitRumble_queued hsubmit, hsubmit]
      rfl
    case displaces =>
      have hsubmit := submit_displaces (r := u.rumble) (q := u.startRequest) u.ceiling henabled hplay hp hle hfull hlow hd
      rw [rumbleStart_submits hpriority hpattern hplay hchip henabled (fun x hx _ _ => hlow),
        submitRumble_queued hsubmit, hsubmit]
      rfl
  case queue =>
    exact fun q queue => ⟨joinQueue_eq q queue, joinQueue_sorted q queue, fun hne hrange =>
      ⟨(lowestPriority_spec hne hrange).1, displacedOf_spec hne hrange⟩⟩
  case cuts => exact fun q => ⟨cutPost_eq q .preempt false, cutPost_eq q .displaced true⟩
  case submissions =>
    intro u q r counted refused
    refine ⟨fun henabled => ?disabled, fun henabled hplay => ?unplayable, fun henabled hplay => ⟨fun hnone => ?starts,
      fun p hp => ⟨fun hlt => ?preempts, fun hle hroom => ?joins, fun d hle hfull hlow hd => ?displaces,
        fun hle hfull hlow => ?full⟩⟩⟩
    case disabled => rw [submitRumble_refused (submit_disabled u.ceiling henabled)]; rfl
    case unplayable => rw [submitRumble_refused (submit_unplayable u.ceiling henabled hplay)]; rfl
    case starts => exact submitRumble_started (submit_free r q u.ceiling henabled hplay hnone)
    case preempts => exact submitRumble_started (submit_preempts u.ceiling henabled hplay hp hlt)
    case joins => exact submitRumble_queued (submit_joins u.ceiling henabled hplay hp hle hroom)
    case displaces => exact submitRumble_queued (submit_displaces u.ceiling henabled hplay hp hle hfull hlow hd)
    case full => rw [submitRumble_refused (submit_full u.ceiling henabled hplay hp hle hfull hlow)]; rfl

/-! ## RUMBLE CUT, RUMBLE ENABLE, RUMBLE LIMITS, a voice that stops (R93, R99, R101, R102) -/

section
variable {u : Ef24}

theorem removeRumble_idle (cause : CutCause) (h : u.rumble.playing = none) :
    u.removeRumble cause =
      { u with rumble := { u.rumble with queue := [] } }.postAll (u.rumble.queue.flatMap (fun q : Request => q.cutPost cause true)) := by
  have hremove : u.rumble.removeAll cause = ({ u.rumble with queue := [] },
      u.rumble.queue.flatMap (fun q : Request => q.cutPost cause true)) := by
    unfold Rumble.removeAll
    split
    next p hp => rw [h] at hp; cases hp
    next => rfl
  rw [Ef24.removeRumble, hremove]
  rfl

theorem removeRumble_playing {p : Playing} (cause : CutCause) (h : u.rumble.playing = some p) :
    u.removeRumble cause =
      { u with rumble := { u.rumble with playing := none, queue := [], motor := u.rumble.motor.endBrake } }.postAll
        (p.request.cutPost cause false ++ u.rumble.queue.flatMap (fun q : Request => q.cutPost cause true)) := by
  rw [Ef24.removeRumble, Rumble.removeAll, h]
  rfl

/-- A removal of all leaves no request. -/
theorem removeRumble_empties (u : Ef24) (cause : CutCause) :
    (u.removeRumble cause).rumble.playing = none ∧ (u.removeRumble cause).rumble.queue = [] := by
  cases h : u.rumble.playing with
  | none =>
    rw [removeRumble_idle cause h, postAll_rumble]
    exact ⟨h, rfl⟩
  | some p =>
    rw [removeRumble_playing cause h, postAll_rumble]
    exact ⟨rfl, rfl⟩

/-- The voice that stopped is linked to no playing request: its queued ones go. -/
theorem tellVoiceStopped_unlinked {i : Nat} (h : ∀ p, u.rumble.playing = some p → p.request.voice ≠ some i) :
    u.tellVoiceStopped i =
      { u with rumble := { u.rumble with queue := u.rumble.queue.filter (fun q : Request => q.voice ≠ some i) } }.postAll
        ((u.rumble.queue.filter (fun q : Request => q.voice = some i)).flatMap (fun q : Request => q.cutPost .voice true)) := by
  have hremove : u.rumble.voiceStopped i u.ceiling =
      ({ u.rumble with queue := u.rumble.queue.filter (fun q : Request => q.voice ≠ some i) },
        (u.rumble.queue.filter (fun q : Request => q.voice = some i)).flatMap
          (fun q : Request => q.cutPost .voice true)) := by
    unfold Rumble.voiceStopped
    split
    next q hq =>
      obtain ⟨p, hp, rfl⟩ := Option.map_eq_some_iff.mp hq
      rw [if_neg (h p hp)]
    next => rfl
  rw [Ef24.tellVoiceStopped, hremove]
  rfl

/-- The voice that stopped is linked to the playing request: the queue's front starts, or the end brake begins. -/
theorem tellVoiceStopped_linked {i : Nat} {p : Playing} (hp : u.rumble.playing = some p)
    (h : p.request.voice = some i) :
    u.tellVoiceStopped i =
      { u with rumble := u.rumble.advanceQueue u.ceiling }.postAll (p.request.cutPost .voice false) := by
  rw [Ef24.tellVoiceStopped, Rumble.voiceStopped, hp]
  dsimp only [Option.map_some]
  rw [if_pos h]
  rfl

/-- The limits RUMBLE LIMITS allows. -/
theorem limitsBad_iff (guardStrength heavyThreshold : Nat) : limitsBad guardStrength heavyThreshold = true ↔
    ¬ (1 ≤ heavyThreshold ∧ heavyThreshold ≤ 15 ∧ guardStrength ≤ 14 ∧ guardStrength < heavyThreshold) := by
  rw [limitsBad, decide_eq_true_iff]
  omega

end

/-- Settles O33: the three frames, then a removal of all and a voice's report by the request that plays. -/
theorem rumbleControlsSetAndRemove : Obligations.RumbleControlsSetAndRemove := by
  refine ⟨?frames, ?removals, ?reports⟩
  case frames =>
    intro s u
    refine ⟨fun hpasses => ?cut, fun hpasses => ?enable, fun hpasses => ?limits⟩
    case cut =>
      have hexec : exec .rumbleCut s = s.answering u.rumbleCut :=
        (exec_rumbleCut s).trans (runFrame_passes _ hpasses)
      rw [hexec]
      clear_value u
      exact ⟨rfl, removeRumble_empties u .cut⟩
    case enable =>
      have hexec : exec .rumbleEnable s = s.answering u.rumbleEnable :=
        (exec_rumbleEnable s).trans (runFrame_passes _ hpasses)
      rw [hexec, Ef24.rumbleEnable]
      clear_value u
      refine ⟨fun h => by rw [if_pos h], fun h => ?_, fun h => ?_⟩
      · rw [h]; rfl
      · rw [h]; rfl
    case limits =>
      have hexec : exec .rumbleLimits s = s.answering u.rumbleLimits :=
        (exec_rumbleLimits s).trans (runFrame_passes _ hpasses)
      rw [hexec, Ef24.rumbleLimits]
      clear_value u
      simp only [limitsBad_iff, ite_not]
  case removals =>
    intro u cause r code cut
    have hcut : ∀ (q : Request) (queued : Bool), q.cutPost cause queued = cut (if queued then 1 else 0) q := by
      intro q queued
      rw [cutPost_eq]
      cases cause <;> rfl
    refine ⟨fun hnone => ?_, fun p hp => ?_⟩
    · rw [removeRumble_idle cause hnone, funext fun q => hcut q true]
      rfl
    · rw [removeRumble_playing cause hp, hcut, funext fun q => hcut q true]
      rfl
  case reports =>
    intro u i r linked cut
    have hcut : ∀ (q : Request) (queued : Bool), q.cutPost .voice queued = cut (if queued then 1 else 0) q :=
      fun q queued => cutPost_eq q .voice queued
    refine ⟨fun p hp hlinked => ⟨fun hempty => ?_, fun q rest hqueue => ?_⟩, fun hunlinked => ?_⟩
    · rw [tellVoiceStopped_linked hp hlinked, hcut, Rumble.advanceQueue, show u.rumble.queue = [] from hempty]
      rfl
    · rw [tellVoiceStopped_linked hp hlinked, hcut, Rumble.advanceQueue, show u.rumble.queue = q :: rest from hqueue]
      rfl
    · rw [tellVoiceStopped_unlinked hunlinked, funext fun q => hcut q true]
      rfl

end Sys2Proof.Machine
end

section
/-! PROOFS. The save commands (Chapter 7): SAVE FORMAT (R114) and the words it writes, the slot commands (R115, R116, R120,
R121) and the intent record. -/

namespace Sys2Proof.Machine

/-! ## SAVE FORMAT: its refusals in their order (R114) -/

section
variable {u : Ef24}

/-- The arguments refused: the slot count, the argument count, a size, or the sum of the sizes. -/
theorem formatBad_iff (u : Ef24) : u.formatBad = true ↔
    u.arg 0 = 0 ∨ 8 < u.arg 0 ∨ u.command.argCount ≠ u.arg 0 + 1 ∨ (∃ z ∈ u.formatSizes, z = 0 ∨ 63 < z) ∨
      Config.sramKiB u.sramCode < 1 + 2 * u.formatSizes.sum := by
  have hlength : u.formatSizes.length = u.arg 0 := by simp [Ef24.formatSizes, upTo]
  have hsizes : (∃ z ∈ u.formatSizes, z = 0 ∨ 63 < z) ↔ ¬ ∀ z ∈ u.formatSizes, 1 ≤ z ∧ z ≤ 63 := by
    constructor
    · rintro ⟨z, hz, hbad⟩ hall
      have := hall z hz
      omega
    · intro hnot
      push Not at hnot
      obtain ⟨z, hz, hbad⟩ := hnot
      exact ⟨z, hz, by omega⟩
  rw [hsizes]
  unfold Ef24.formatBad volumeFits
  rw [hlength, Bool.or_eq_true, decide_eq_true_iff, Bool.not_eq_true', ← Bool.not_eq_true, Bool.and_eq_true,
    Bool.and_eq_true, decide_eq_true_iff, decide_eq_true_iff, List.all_eq_true]
  simp only [decide_eq_true_iff]
  generalize (∀ z ∈ u.formatSizes, 1 ≤ z ∧ z ≤ 63) = allowed
  by_cases hallowed : allowed
  · simp only [hallowed, and_true, not_true, false_or]
    omega
  · simp only [hallowed, and_false, false_and, not_false_iff, true_or, or_true]

/-- A window that shows the SRAM is valid. -/
theorem saveWindowsOpen_iff (u : Ef24) : u.saveWindowsOpen = true ↔
    ∃ i, i < 16 ∧ ((u.window i).kindNamed = some .saveStage ∨ (u.window i).kindNamed = some .saveLive ∨
      (u.window i).kindNamed = some .flags) := by
  have hlength : u.windows.toList.length = 16 := by simp
  have hwindow : ∀ i (h : i < u.windows.toList.length), u.window i = u.windows.toList[i] := by
    intro i h
    exact List.getD_eq_getElem _ _ h
  unfold Ef24.saveWindowsOpen
  simp only [List.any_eq_true, Bool.or_eq_true, beq_iff_eq, or_assoc]
  constructor
  · rintro ⟨e, he, hkind⟩
    obtain ⟨i, hi, rfl⟩ := List.getElem_of_mem he
    exact ⟨i, by omega, by rwa [hwindow i hi]⟩
  · rintro ⟨i, hi, hkind⟩
    have hi : i < u.windows.toList.length := by omega
    exact ⟨u.windows.toList[i], List.getElem_mem hi, by rwa [← hwindow i hi]⟩

theorem saveFormat_bad (h : u.formatBad = true) : u.saveFormat = u.respond .badArg [] := if_pos h

variable (hgood : ¬ u.formatBad = true)
include hgood

theorem saveFormat_notReady (hvolume : u.save.volume = .recovering) : u.saveFormat = u.respond .notReady [] :=
  (if_neg hgood).trans (if_pos hvolume)

variable (hvolume : u.save.volume ≠ .recovering)
include hvolume

theorem saveFormat_busy (hbusy : u.save.sequencer ≠ .idle) : u.saveFormat = u.respond .busy [] :=
  (if_neg hgood).trans ((if_neg hvolume).trans (if_pos hbusy))

variable (hidle : u.save.sequencer = .idle)
include hidle

theorem saveFormat_windowsOpen (hopen : u.saveWindowsOpen = true) : u.saveFormat = u.respond .windowsOpen [] :=
  (if_neg hgood).trans ((if_neg hvolume).trans ((if_neg (not_not_intro hidle)).trans (if_pos hopen)))

theorem saveFormat_starts (hclosed : ¬ u.saveWindowsOpen = true) :
    u.saveFormat = { u with save := { u.save with
      slots := u.save.clearMarks.slots, volume := .unformatted,
      sequencer := .formatDraining u.formatSizes } }.respond .accepted [] := by
  have hstart : u.saveFormat = (u.onSave (fun s => { s.clearMarks with
      volume := .unformatted, sequencer := .formatDraining u.formatSizes })).respond .accepted [] :=
    (if_neg hgood).trans ((if_neg hvolume).trans ((if_neg (not_not_intro hidle)).trans (if_neg hclosed)))
  rw [hstart, Ef24.onSave, clearMarks_eq]

end

/-- The marks of the eight slots after all are cleared. -/
theorem clearMarks_slot (x : Save) {k : Nat} (hk : k < 8) :
    x.clearMarks.slot k = { x.slot k with tainted := false, bad := false } := by
  have h := foldSlots_slot (fun y => { y with tainted := false, bad := false }) (Nat.le_refl 8) x k
  rw [if_pos hk] at h
  exact h

/-! ## The words of a format (section 13.6) -/

/-- The fields of an EMPTY record of generation 0. -/
theorem emptyRecord_words : (SlotRecord.empty 0).words = [0, 0, 0, 0, 0, 0, 0, 0, 0xFFFF, 0xFFFF] := by decide

/-- The words of an EMPTY record at slot k's place. -/
theorem slotRecordWrites_empty (k : Nat) :
    let empty : List Word := [0, 0, 0, 0, 0, 0, 0, 0, 0xFFFF, 0xFFFF]
    slotRecordWrites k (SlotRecord.empty 0) =
      (List.range 10).map (fun j => (16 + 16 * k + j, empty.getD j 0)) ++ [(16 + 16 * k + 15, crcOf empty)] := by
  unfold slotRecordWrites recordWrites
  rw [emptyRecord_words]
  rfl

/-- The words of a volume record: its fields, its mark, its check word. -/
theorem volumeRecordWrites_eq (sizes : List Nat) (capacity : Nat) :
    let volume : List Word := [0x5EF2, BitVec.ofNat 16 sizes.length, BitVec.ofNat 16 capacity] ++
      (List.range 8).map (fun k => BitVec.ofNat 16 (sizes.getD k 0))
    volumeRecordWrites sizes capacity =
      (List.range 10).map (fun j => (1 + j, volume.getD (1 + j) 0)) ++ [(0, 0x5EF2), (15, crcOf volume)] := rfl

/-- A CRC takes the words in order. -/
theorem crcOf_append (ws : List Word) (w : Word) : crcOf (ws ++ [w]) = crcWord (crcOf ws) w :=
  List.foldl_concat ..

/-- The CRC's bit step: the outgoing bit and the incoming one decide whether the polynomial is applied. -/
theorem crcBit_eq (crc : Word) (b : Bool) :
    crcBit crc b = if crc.getLsbD 15 = b then crc <<< 1 else (crc <<< 1) ^^^ 0x1021 := by
  have hmsb : crc.msb = crc.getLsbD 15 := rfl
  unfold crcBit
  rw [hmsb]
  simp only [beq_iff_eq]

/-- Settles O35: the refusals in their order, the acceptance; then the words of a format and the CRC. -/
theorem saveFormatStartsDraining : Obligations.SaveFormatStartsDraining := by
  refine ⟨?frames, ?writes, ⟨rfl, crcOf_append⟩, fun crc w => rfl, crcBit_eq, rfl⟩
  case frames =>
    intro s u n sizes bad open_ hpasses
    have hexec : exec .saveFormat s = s.answering u.saveFormat :=
      (exec_saveFormat s).trans (runFrame_passes _ hpasses)
    rw [hexec]
    clear_value u
    have hbad : u.formatBad = true ↔ bad := formatBad_iff u
    have hopen : u.saveWindowsOpen = true ↔ open_ := saveWindowsOpen_iff u
    rw [← hbad, ← hopen]
    refine ⟨fun h => ?bad, fun hgood hvolume => ?notReady, fun hgood hvolume hbusy => ?busy,
      fun hgood hvolume hidle h => ?windowsOpen, fun hgood hvolume hidle hclosed => ⟨u.save.clearMarks.slots, ?starts, ?marks⟩⟩
    case bad => rw [saveFormat_bad h]
    case notReady => rw [saveFormat_notReady hgood hvolume]
    case busy => rw [saveFormat_busy hgood hvolume hbusy]
    case windowsOpen => rw [saveFormat_windowsOpen hgood hvolume hidle h]
    case starts => rw [saveFormat_starts hgood hvolume hidle hclosed]; rfl
    case marks => exact fun k hk => clearMarks_slot u.save hk
  case writes =>
    intro sizes capacity volume empty writes
    refine ⟨?_, fun m n code hm h1 hn hcut => formatWrites_cut code hm h1 hn hcut⟩
    change formatWrites sizes capacity = _
    rw [formatWrites, volumeRecordWrites_eq, funext slotRecordWrites_empty, ← List.append_assoc]
    rfl

/-! ## The slot commands (R115, R116, R120, R121) -/

section
variable {u : Ef24} (accepted : Nat → Ef24)

theorem withSlot_outOfRange (h : u.save.slotLimit ≤ u.arg 0) : u.withSlot accepted = u.respond .outOfRange [] := if_pos h

variable (hslot : u.arg 0 < u.save.slotLimit)
include hslot

theorem withSlot_notReady (hvolume : u.save.volume ≠ .ready) : u.withSlot accepted = u.respond .notReady [] :=
  (if_neg (Nat.not_le.mpr hslot)).trans (if_pos hvolume)

variable (hready : u.save.volume = .ready)
include hready

theorem withSlot_busy (hbusy : u.save.sequencer ≠ .idle) : u.withSlot accepted = u.respond .busy [] :=
  (if_neg (Nat.not_le.mpr hslot)).trans ((if_neg (not_not_intro hready)).trans (if_pos hbusy))

theorem withSlot_accepted (hidle : u.save.sequencer = .idle) : u.withSlot accepted = accepted (u.arg 0) :=
  (if_neg (Nat.not_le.mpr hslot)).trans ((if_neg (not_not_intro hready)).trans (if_neg (not_not_intro hidle)))

end

/-- SLOT SEED, SLOT DISCARD and SLOT VERIFY make the same checks first. -/
theorem exec_slotRow {s : State} {c : Command} (hc : c ∈ [Command.slotSeed, .slotDiscard, .slotVerify])
    (hpasses : s.settled.passes c) :
    ∃ accepted, exec (frameRow c) s = s.answering (s.settled.withSlot accepted) := by
  fin_cases hc
  · exact ⟨_, (exec_slotSeed s).trans (runFrame_passes _ hpasses)⟩
  · exact ⟨_, (exec_slotDiscard s).trans (runFrame_passes _ hpasses)⟩
  · exact ⟨_, (exec_slotVerify s).trans (runFrame_passes _ hpasses)⟩

/-- A discard clears the slot's marks and begins with the intent record. -/
theorem discard_begins (u : Ef24) {k : Nat} (hk : k < 8) (new : SlotRecord) :
    ((u.setTainted k false).setBad k false).beginIntent false k new = { u with save := { u.save with
      slots := u.save.slots.setIfInBounds k { u.save.slot k with tainted := false, bad := false }
      sequencer := .intent false k new (intentRecordWrites k new (u.save.slot k).record) } } := by
  have htainted : (u.setTainted k false).save.slot k = { u.save.slot k with tainted := false } :=
    table_get_put_same _ _ _ hk
  have hslots : ((u.setTainted k false).setBad k false).save.slots =
      u.save.slots.setIfInBounds k { u.save.slot k with tainted := false, bad := false } := by
    change Table.put (Table.put u.save.slots k _) k { (u.setTainted k false).save.slot k with bad := false } = _
    rw [htainted]
    exact Vector.setIfInBounds_setIfInBounds ..
  have hrecord : (((u.setTainted k false).setBad k false).save.slot k).record = (u.save.slot k).record := by
    have hbad : ((u.setTainted k false).setBad k false).save.slot k =
        { (u.setTainted k false).save.slot k with bad := false } := table_get_put_same _ _ _ hk
    rw [hbad, htainted]
  rw [Ef24.beginIntent, hrecord, ← hslots]
  rfl

/-- The words of an intent record: its fields, its mark, its check word. -/
theorem intentRecordWrites_eq (k : Nat) (new prior : SlotRecord) :
    let words := [0x5EF2, BitVec.ofNat 16 k] ++ new.words ++ prior.words
    intentRecordWrites k new prior =
      (List.range 21).map (fun j => (145 + j, words.getD (1 + j) 0)) ++ [(144, 0x5EF2), (175, crcOf words)] := by
  unfold intentRecordWrites markedRecordWrites intentFields
  rw [slotRecord_words, slotRecord_words]
  rfl

/-- Settles O36: the shared refusals, the three acceptances, the words of an intent record. -/
theorem slotCommandsStart : Obligations.SlotCommandsStart := by
  refine ⟨?frames, ?writes, fun generation => rfl⟩
  case frames =>
    intro s u
    have hrow : ∀ c ∈ [Command.slotSeed, Command.slotDiscard, Command.slotVerify], u.passes c →
        ∃ accepted, exec (frameRow c) s = s.answering (u.withSlot accepted) := fun c hc hpasses => exec_slotRow hc hpasses
    have hseed : u.passes .slotSeed → exec .slotSeed s = s.answering u.slotSeed :=
      fun hpasses => (exec_slotSeed s).trans (runFrame_passes _ hpasses)
    have hdiscard : u.passes .slotDiscard → exec .slotDiscard s = s.answering u.slotDiscard :=
      fun hpasses => (exec_slotDiscard s).trans (runFrame_passes _ hpasses)
    have hverify : u.passes .slotVerify → exec .slotVerify s = s.answering u.slotVerify :=
      fun hpasses => (exec_slotVerify s).trans (runFrame_passes _ hpasses)
    clear_value u
    intro k limit unmarked
    refine ⟨fun c hc hpasses => ?refusals, fun hslot hready hidle => ⟨fun hpasses => ?seed, fun hpasses hk => ?discard,
      fun hpasses => ⟨fun hvalid => ?verify, fun hempty => ?verifyEmpty⟩⟩⟩
    case refusals =>
      obtain ⟨accepted, hexec⟩ := hrow c hc hpasses
      rw [hexec]
      exact ⟨fun h => by rw [withSlot_outOfRange accepted h],
        fun hslot hvolume => by rw [withSlot_notReady accepted hslot hvolume],
        fun hslot hready hbusy => by rw [withSlot_busy accepted hslot hready hbusy]⟩
    case seed => rw [hseed hpasses, Ef24.slotSeed, withSlot_accepted _ hslot hready hidle]; rfl
    case discard =>
      rw [hdiscard hpasses, Ef24.slotDiscard, withSlot_accepted _ hslot hready hidle, discard_begins u hk]
      rfl
    case verify =>
      rw [hverify hpasses, Ef24.slotVerify, withSlot_accepted _ hslot hready hidle, if_pos hvalid]
      rfl
    case verifyEmpty =>
      rw [hverify hpasses, Ef24.slotVerify, withSlot_accepted _ hslot hready hidle, if_neg (by rw [hempty]; decide)]
      rfl
  case writes =>
    intro k new prior fields words writes
    have hfields : ∀ r : SlotRecord, r.words = fields r := slotRecord_words
    refine ⟨?_, fun m n hm hmark hn hcut => ?_⟩
    · change intentRecordWrites k new prior = _
      rw [intentRecordWrites_eq, hfields, hfields]
    · have hlength : writes.length = 23 := by
        change (intentRecordWrites k new prior).length = 23
        rw [intentRecordWrites_eq]
        rfl
      have hwords : words = recordMark :: intentFields k new prior := by
        rw [intentFields, hfields, hfields]
        rfl
      rw [hlength] at hn hcut
      rw [hwords] at hcut
      exact intentRecordWrites_cut hm hmark hn (hcut.imp_left (by omega))

/-! ## SLOT COMMIT (R116) -/

theorem commitBad_iff (u : Ef24) (k length : Nat) : u.commitBad k length = true ↔
    length % 2 = 1 ∨ length = 0 ∨ 64512 < length ∨
      (u.save.volume = .ready ∧ k < u.save.slotCount ∧ 1024 * u.save.sizes.getD k 0 < length) := by
  have hbytes : u.save.imageBytes k = 1024 * u.save.sizes.getD k 0 := by
    unfold Save.imageBytes Save.slotWords imageWords
    omega
  rw [Ef24.commitBad, hbytes, Bool.or_eq_true, decide_eq_true_iff, decide_eq_true_iff, or_assoc, or_assoc]

/-- Settles O37: the data length, then the shared refusals, then the Tainted mark. -/
theorem slotCommitRaisesGuard : Obligations.SlotCommitRaisesGuard := by
  intro s u k length limit bad hpasses
  have hexec : exec .slotCommit s = s.answering u.slotCommit :=
    (exec_slotCommit s).trans (runFrame_passes _ hpasses)
  rw [hexec, Ef24.slotCommit]
  clear_value u
  have hbad : u.commitBad k length = true ↔ bad := commitBad_iff u k length
  rw [← hbad]
  refine ⟨fun h => by rw [if_pos h], fun hgood hslot => ?outOfRange, fun hgood hslot hvolume => ?notReady,
    fun hgood hslot hready => ⟨fun hbusy => ?busy, fun hidle htainted => ?tainted, fun hidle hclean => ?accepted⟩⟩
  case outOfRange => rw [if_neg hgood, withSlot_outOfRange _ hslot]
  case notReady => rw [if_neg hgood, withSlot_notReady _ hslot hvolume]
  case busy => rw [if_neg hgood, withSlot_busy _ hslot hready hbusy]
  case tainted => rw [if_neg hgood, withSlot_accepted _ hslot hready hidle, if_pos htainted]
  case accepted =>
    rw [if_neg hgood, withSlot_accepted _ hslot hready hidle, if_neg (by rw [hclean]; decide)]
    rfl

end Sys2Proof.Machine
end

section
/-! PROOFS. The flags (Chapter 8): the commands' operations (R130, R132 to R134) and a flag-word access (R129 to R131). -/

namespace Sys2Proof.Machine

/-! ## The flag commands -/

/-- The single-flag commands differ in the kind of their operation only. -/
theorem exec_singleFlag {s : State} {x : Command × FlagKind}
    (hx : x ∈ [(Command.flagTest, FlagKind.test), (.flagSet, .set), (.flagClear, .clear), (.flagToggle, .toggle)])
    (hpasses : s.settled.passes x.1) : exec (frameRow x.1) s = s.answering (s.settled.singleFlag x.2) := by
  fin_cases hx
  · exact (exec_flagTest s).trans (runFrame_passes _ hpasses)
  · exact (exec_flagSet s).trans (runFrame_passes _ hpasses)
  · exact (exec_flagClear s).trans (runFrame_passes _ hpasses)
  · exact (exec_flagToggle s).trans (runFrame_passes _ hpasses)

/-- Settles O39. -/
theorem flagCommandsJoinList : Obligations.FlagCommandsJoinList := by
  intro s u joined
  refine ⟨fun x hx hpasses => ?single, fun hpasses => ?scan, fun hpasses => ?clearRange⟩
  case single =>
    have hexec : exec (frameRow x.1) s = s.answering (u.singleFlag x.2) := exec_singleFlag hx hpasses
    rw [hexec]
    clear_value u
    rfl
  case scan =>
    have hexec : exec .flagScan s = s.answering u.flagScan := (exec_flagScan s).trans (runFrame_passes _ hpasses)
    rw [hexec]
    clear_value u
    rfl
  case clearRange =>
    have hexec : exec .flagClearRange s = s.answering u.flagClearRange :=
      (exec_flagClearRange s).trans (runFrame_passes _ hpasses)
    rw [hexec]
    clear_value u
    rfl

/-! ## The bits of a turn (R131) -/

theorem bitWord_getLsbD (i : Nat) {j : Nat} (hj : j < 16) : (bitWord i).getLsbD j = decide (j = i) := by
  unfold bitWord
  rw [BitVec.getLsbD_shiftLeft]
  by_cases hij : j < i
  · simp [hij, Nat.ne_of_lt hij]
  · by_cases heq : j = i
    · subst heq; simp [hj]
    · have hsub : j - i ≠ 0 := by omega
      simp [heq, hsub]

/-- Bits set one after another. -/
theorem foldBits_getLsbD (l : List Nat) (m : Word) {j : Nat} (hj : j < 16) :
    (l.foldl (fun m i => m ||| bitWord i) m).getLsbD j = (m.getLsbD j || decide (j ∈ l)) := by
  induction l generalizing m with
  | nil => simp
  | cons a l ih =>
    rw [List.foldl_cons, ih, BitVec.getLsbD_or, bitWord_getLsbD a hj, Bool.or_assoc]
    simp [List.mem_cons]

theorem mem_bits (op : FlagOp) (i : Nat) : i ∈ op.bits ↔
    i < 16 ∧ op.first ≤ 16 * op.nextWord + i ∧ 16 * op.nextWord + i < op.first + op.count := by
  rw [FlagOp.bits, List.mem_filter, covers_iff, upTo, List.mem_range]

/-- The mask has a 1 at the bits in the range. -/
theorem mask_getLsbD (op : FlagOp) {i : Nat} (hi : i < 16) : op.mask.getLsbD i = op.covers i := by
  rw [FlagOp.mask, foldBits_getLsbD _ _ hi, Bool.eq_iff_iff, Bool.or_eq_true, decide_eq_true_iff, mem_bits, covers_iff]
  simp [hi]

/-- The word written back, bit by bit. -/
theorem written_getLsbD (op : FlagOp) (w : Word) {i : Nat} (hi : i < 16) :
    (op.written w).getLsbD i =
      if op.covers i = true then
        match op.kind with
        | .test => w.getLsbD i
        | .scan => w.getLsbD i
        | .set => true
        | .clear => false
        | .clearRange => false
        | .toggle => !w.getLsbD i
      else w.getLsbD i := by
  have hmask : op.mask[i] = op.covers i := (BitVec.getLsbD_eq_getElem hi).symm.trans (mask_getLsbD op hi)
  unfold FlagOp.written
  cases op.kind <;> cases hcovers : op.covers i <;> simp [hmask, hcovers, hi]

/-! ## The end of an operation, and its answer (R130, R132 to R134) -/

/-- The turn's word is the last of the range. -/
theorem lastTurn_iff (op : FlagOp) : op.lastWord ≤ op.nextWord ↔ op.first + op.count ≤ 16 * op.nextWord + 16 := by
  unfold FlagOp.lastWord
  omega

/-- The lowest flag of the turn that equals the polarity. -/
theorem bits_find_iff (op : FlagOp) (w : Word) (i : Nat) :
    op.bits.find? (fun i => w.getLsbD i == op.polarity) = some i ↔
      (i ∈ op.bits ∧ w.getLsbD i = op.polarity) ∧ ∀ j, (j ∈ op.bits ∧ w.getLsbD j = op.polarity) → i ≤ j := by
  have hsorted : op.bits.Pairwise (· < ·) := List.Pairwise.filter _ List.pairwise_lt_range
  simp only [find_lowest_iff hsorted, beq_iff_eq]

/-- No flag of the turn equals the polarity. -/
theorem hit_none_iff (op : FlagOp) (w : Word) :
    op.hit w = none ↔ ∀ i, ¬ (i ∈ op.bits ∧ w.getLsbD i = op.polarity) := by
  simp [FlagOp.hit, List.find?_eq_none]

/-- The set flags of the turn in the range. -/
theorem setCount_eq (op : FlagOp) (w : Word) :
    op.setCount w = ((List.range 16).filter (fun i =>
      (op.first ≤ 16 * op.nextWord + i ∧ 16 * op.nextWord + i < op.first + op.count) ∧ w.getLsbD i = true)).length := by
  unfold FlagOp.setCount FlagOp.bits upTo
  rw [List.filter_filter]
  refine congrArg List.length (List.filter_congr fun i _ => ?_)
  rw [Bool.eq_iff_iff, Bool.and_eq_true, decide_eq_true_iff, covers_iff, and_comm]

/-- The operation that goes on: one word further, its count kept if it counts. -/
theorem afterTurn_eq (op : FlagOp) (w : Word) :
    op.afterTurn w = { op with
      nextWord := op.nextWord + 1
      tally := if op.kind = .clearRange then op.tally + op.setCount w else op.tally } := by
  unfold FlagOp.afterTurn
  cases hkind : op.kind <;> simp

/-- Settles O40: the access; the bits of the word written; by kind, when an operation is finished and what it answers. -/
theorem flagAccessWritesAndTurns : Obligations.FlagAccessWritesAndTurns := by
  refine ⟨?access, fun op w i hi => ?written, fun op w => ?answers⟩
  case access =>
    intro s op rest u
    have hexec : exec .flagWordAccess s = s.answering (u.access .flag Ef24.flagAccess) := exec_flagWordAccess s
    clear_value u
    intro a w done hport hflags
    rw [hexec, Ef24.access, hport, if_pos (by decide), Ef24.flagAccess, hflags]
    dsimp only
    rw [afterTurn_eq]
    rfl
  case written =>
    intro inRange
    rw [written_getLsbD op w hi]
    simp only [covers_iff]
    rfl
  case answers =>
    intro inRange lastTurn matches_
    have hmatch : ∀ i, matches_ i ↔ i ∈ op.bits ∧ w.getLsbD i = op.polarity := by
      intro i
      rw [mem_bits, and_assoc]
    refine ⟨setCount_eq op w, fun hkind => ?single, fun hscan => ⟨?finished, fun i hi hlow => ?found, fun hnone => ?missed⟩,
      fun hclear => ?range⟩
    case single =>
      unfold FlagOp.finished FlagOp.answer
      rcases hkind with hkind | hkind | hkind | hkind <;> rw [hkind] <;> exact ⟨rfl, rfl⟩
    case finished =>
      have hhit : (op.hit w).isSome = true ↔ ∃ i, matches_ i := by
        rw [Option.isSome_iff_ne_none, ne_eq, hit_none_iff, not_forall_not]
        exact exists_congr fun i => (hmatch i).symm
      rw [← hhit]
      unfold FlagOp.finished
      rw [hscan]
      dsimp only
      rw [Bool.or_eq_true, decide_eq_true_iff, lastTurn_iff]
    case found =>
      have hfind : op.bits.find? (fun i => w.getLsbD i == op.polarity) = some i :=
        (bits_find_iff op w i).mpr ⟨(hmatch i).mp hi, fun j hj => hlow j ((hmatch j).mpr hj)⟩
      unfold FlagOp.answer FlagOp.hit
      rw [hscan, hfind]
      rfl
    case missed =>
      have hmiss : op.hit w = none := (hit_none_iff op w).mpr fun i h => hnone i ((hmatch i).mpr h)
      unfold FlagOp.answer
      rw [hscan, hmiss]
      rfl
    case range =>
      unfold FlagOp.finished FlagOp.answer
      rw [hclear]
      dsimp only
      rw [decide_eq_true_iff, lastTurn_iff]
      exact ⟨Iff.rfl, rfl⟩

end Sys2Proof.Machine
end

section
/-! PROOFS. The clock's setting and the Play Timer (Chapter 9): CLOCK SET (R146 to R148), the timer (R152, R153). -/

namespace Sys2Proof.Machine

/-! ## CLOCK SET, set by set -/

section
variable {u : Ef24}

theorem clockSet_noReading (h : u.clockArgs.exists_ = false) : u.clockSet = u.respond .badArg [] := by
  rw [Ef24.clockSet, h]
  rfl

variable (hreading : u.clockArgs.exists_ = true)
include hreading

theorem clockSet_first (hvalid : u.calendar.valid = false) :
    u.clockSet = (u.setFirst u.clockArgs).respond .ok [0, 0, 0] := by
  rw [Ef24.clockSet, hreading, hvalid]
  rfl

variable (hvalid : u.calendar.valid = true)
include hvalid

theorem clockSet_forward (hforward : u.calendar.high ≤ u.clockArgs.instant) :
    u.clockSet = (u.setForward u.clockArgs).respond .ok
      [1, word (u.calendar.applied u.clockArgs), word (min 65535 (u.calendar.skipped u.clockArgs))] := by
  rw [Ef24.clockSet, hreading, hvalid]
  exact if_pos hforward

theorem clockSet_backward (hbackward : u.clockArgs.instant < u.calendar.high) :
    u.clockSet = (u.setBackward u.clockArgs).respond .ok [2, word (u.calendar.minutesBehind u.clockArgs), 0] := by
  rw [Ef24.clockSet, hreading, hvalid]
  exact if_neg (Nat.not_le.mpr hbackward)

end

/-- A forward set: the catch-up is posted, then the applied count, if there is one, is counted, posted and told. -/
theorem setForward_tells (u : Ef24) (t : DateTime) :
    let c := u.calendar
    let moved : Ef24 := { u with calendar := { c with now := t, high := t.instant, behind := false } }
    let told : Ef24 := if c.behind = true then moved.post .clockCaughtUp 1 0 else moved
    u.setForward t =
      if c.applied t = 0 then told
      else (({ told with calendar := { told.calendar with gameDay := min 16777215 (c.gameDay + c.applied t) } }).post
        .dayRollover (if c.applied t = c.skipped t then 1 else 3) (c.applied t)).tellRollover := by
  intro c moved told
  have htold : told.calendar.gameDay = c.gameDay := by
    unfold told
    split <;> rfl
  have happly : u.setForward t = told.applyDays (c.applied t) (c.skipped t) := rfl
  rw [happly, Ef24.applyDays]
  by_cases hzero : c.applied t = 0
  · rw [if_pos hzero, if_neg (by omega)]
  · rw [if_neg hzero, if_pos (by omega), ← htold]
    rfl

/-! ## The rollovers between two instants (R147) -/

/-- One second more counts a rollover when it is one. -/
theorem rolloversUpTo_succ {dayStart : Nat} (h : dayStart ≤ 23) (x : Nat) :
    rolloversUpTo dayStart (x + 1) =
      rolloversUpTo dayStart x + if (x + 1) % 86400 = dayStart * 3600 then 1 else 0 := by
  unfold rolloversUpTo
  split <;> omega

theorem rolloversUpTo_mono {dayStart : Nat} (h : dayStart ≤ 23) : Monotone (rolloversUpTo dayStart) := by
  refine monotone_nat_of_le_succ fun x => ?_
  rw [rolloversUpTo_succ h]
  exact Nat.le_add_right ..

/-- The rollovers up to a later instant are those up to the earlier and those between. -/
theorem rolloversUpTo_add {dayStart after upto : Nat} (h : dayStart ≤ 23) (hle : after ≤ upto) :
    rolloversUpTo dayStart upto = rolloversUpTo dayStart after +
      ((Finset.Ioc after upto).filter (fun t => t % 86400 = dayStart * 3600)).card := by
  induction upto, hle using Nat.le_induction with
  | base => simp
  | succ x hle ih =>
    rw [rolloversUpTo_succ h, ih, ← Finset.insert_Ioc_right_eq_Ioc_add_one hle, Finset.filter_insert]
    split
    · rw [Finset.card_insert_of_notMem (by simp), Nat.add_assoc]
    · rfl

/-- The rollovers between two instants, counted one by one. -/
theorem rolloversBetween_card {dayStart : Nat} (after upto : Nat) (h : dayStart ≤ 23) :
    rolloversBetween dayStart after upto =
      ((Finset.Ioc after upto).filter (fun t => t % 86400 = dayStart * 3600)).card := by
  unfold rolloversBetween
  rcases Nat.le_total after upto with hle | hle
  · rw [rolloversUpTo_add h hle, Nat.add_sub_cancel_left]
  · rw [Finset.Ioc_eq_empty_of_le hle, Nat.sub_eq_zero_of_le (rolloversUpTo_mono h hle)]
    rfl

/-- The instants of a rollover are the readings of the Day Start hour. -/
theorem rollover_reading {t : DateTime} {dayStart : Nat} (ht : t.exists_ = true) (h : dayStart ≤ 23) :
    t.instant % 86400 = dayStart * 3600 ↔ t.hour = dayStart ∧ t.minute = 0 ∧ t.second = 0 := by
  obtain ⟨-, -, -, hhour, hminute, hsecond⟩ := (exists_iff t).mp ht
  unfold DateTime.instant
  omega

/-- Settles O41: the four outcomes of a set; then the count of rollovers and the readings of the range. -/
theorem clockSetFirstForwardBackward : Obligations.ClockSetFirstForwardBackward := by
  refine ⟨?frames, fun dayStart after upto h => rolloversBetween_card after upto h,
    fun t dayStart ht h => rollover_reading ht h, exists_iff, fun year => ?months⟩
  case frames =>
    intro s u c t n applied moved told hpasses
    have hexec : exec .clockSet s = s.answering u.clockSet := (exec_clockSet s).trans (runFrame_passes _ hpasses)
    rw [hexec]
    clear_value u
    refine ⟨fun h => ?noReading, fun hreading hvalid => ?first, fun hreading hvalid h => ?forward,
      fun hreading hvalid h => ?backward⟩
    case noReading => rw [clockSet_noReading h]
    case first => rw [clockSet_first hreading hvalid]; rfl
    case forward => rw [clockSet_forward hreading hvalid h, setForward_tells]; rfl
    case backward => rw [clockSet_backward hreading hvalid h]; rfl
  case months =>
    have hfebruary := february year
    have hmonths : (List.range 12).map (fun m => monthDays year (m + 1)) =
        [31, monthDays year 2, 31, 30, 31, 30, 31, 31, 30, 31, 30, 31] := rfl
    rw [hmonths, hfebruary]

/-! ## The Play Timer (R152, R153) -/

theorem timerWords_eq (c : Calendar) :
    c.timerWords =
      [ BitVec.ofNat 16 (c.timerSeconds / 65536), BitVec.ofNat 16 c.timerSeconds,
        BitVec.ofNat 16 ((if c.timerRunning then 32768 else 0) + c.timerHundredths % 128) ] := by
  rw [Calendar.timerWords, put_bottom]
  rfl

/-- A hundredth that the timer counts. -/
theorem hundredth_counts {u : Ef24} (hrunning : u.calendar.timerRunning = true) (hrun : u.chip = some .run) :
    u.hundredth =
      if u.calendar.timerHundredths < 99 then
        { u with calendar := { u.calendar with timerHundredths := u.calendar.timerHundredths + 1 } }
      else if u.calendar.timerSeconds < 4294967295 then
        { u with calendar := { u.calendar with timerHundredths := 0, timerSeconds := u.calendar.timerSeconds + 1 } }
      else u := by
  rw [Ef24.hundredth, if_pos ⟨hrunning, hrun⟩, Ef24.onCalendar, Calendar.addHundredth]
  split
  · rfl
  · split <;> rfl

theorem hundredth_stopped {u : Ef24} (h : u.calendar.timerRunning = false ∨ u.chip ≠ some .run) : u.hundredth = u := by
  refine if_neg ?_
  rintro ⟨hrunning, hrun⟩
  rcases h with h | h
  · rw [h] at hrunning
    cases hrunning
  · exact h hrun

/-- Settles O43. -/
theorem playTimerCommandsAndHundredth : Obligations.PlayTimerCommandsAndHundredth := by
  intro s u
  have hrun := exec_timerRun s
  have hstop := exec_timerStop s
  have hclear := exec_timerClear s
  have hread := exec_timerRead s
  have hhundredth : exec .playTimerHundredth s = s.answering u.hundredth := exec_playTimerHundredth s
  have hframe : ∀ (c : Command) (body : Ef24 → Ef24), u.passes c → runFrame c body s = s.answering (body u) :=
    fun c body hpasses => runFrame_passes body hpasses
  clear_value u
  rw [hrun, hstop, hclear, hread, hhundredth]
  refine ⟨fun hpasses => ?run, fun hpasses => ?stop, fun hpasses => ?clear, fun hpasses => ?read,
    fun hrunning hrun => ?counts, fun h => ?stopped⟩
  case run => rw [hframe _ _ hpasses]; rfl
  case stop => rw [hframe _ _ hpasses]; rfl
  case clear => rw [hframe _ _ hpasses]; rfl
  case read => rw [hframe _ _ hpasses, Ef24.timerRead, timerWords_eq]
  case counts => rw [hundredth_counts hrunning hrun]
  case stopped => rw [hundredth_stopped h]

end Sys2Proof.Machine
end

section
/-! PROOFS. Events, sleep and wake (Chapters 10 to 12): EVENT TAKE (R169 to R171), SLEEP (R180, R181), WAKE (R165, R182). -/

namespace Sys2Proof.Machine

/-! ## Events (R169 to R171) -/

/-- The words of a take of 1 to 7 records. -/
theorem takeWords_eq (e : EventUnit) {n : Nat} (hn : n ≤ 7) :
    e.takeWords n = BitVec.ofNat 16 ((if e.overflow then 32768 else 0) + min n e.queue.length) ::
      (e.queue.take n).flatMap (fun (x : Event) =>
        [BitVec.ofNat 16 x.kind.code, BitVec.ofNat 16 x.index.toNat, x.detail, x.stamp]) := by
  have hfits : e.takes n < 2 ^ 3 := by
    unfold EventUnit.takes
    omega
  unfold EventUnit.takeWords
  rw [put_of_fits _ 0 3 hfits, pow_zero, mul_one]
  rfl

/-- CIRQ is asserted with the supply present and an event of an enabled kind in the queue. -/
theorem cirq_iff (u : Ef24) : u.cirq = true ↔
    u.power.supply ≠ .absent ∧ ∃ e ∈ u.events.queue, u.events.mask.getLsbD e.kind.code = true := by
  unfold Ef24.cirq
  rw [Bool.and_eq_true, bne_iff_ne, List.any_eq_true]
  rfl

/-- Settles O44. -/
theorem eventTakeAndMaskSet : Obligations.EventTakeAndMaskSet := by
  refine ⟨fun s => ?frames, cirq_iff⟩
  intro u n k
  refine ⟨fun hpasses => ?take, fun hpasses => ?mask⟩
  case take =>
    have hexec : exec .eventTake s = s.answering u.eventTake := (exec_eventTake s).trans (runFrame_passes _ hpasses)
    rw [hexec, Ef24.eventTake]
    clear_value u
    refine ⟨fun hbad => by rw [if_pos hbad], fun h1 h7 => ?_⟩
    rw [if_neg (by omega), takeWords_eq _ h7]
    rfl
  case mask =>
    have hexec : exec .eventMaskSet s = s.answering u.eventMaskSet :=
      (exec_eventMaskSet s).trans (runFrame_passes _ hpasses)
    rw [hexec, Ef24.eventMaskSet]
    clear_value u
    by_cases h : u.arg 1 < 4
    · rw [if_neg (Nat.not_le.mpr h), if_pos h]
    · rw [if_pos (Nat.not_lt.mp h), if_neg h]

/-! ## SLEEP: what the voices do (R81) -/

section
variable {v : Voice} (i : Nat)

/-- What a voice becomes at ENTERING_SLEEP is in neither case in use. -/
theorem fallAsleep_live (h : v.state = .priming ∨ v.state = .playing) : v.fallAsleep i =
    (v.becomeFree, v.play.endPost .sleep v.underruns ++ v.stopReport i) := by
  rcases h with h | h <;> rw [Voice.fallAsleep, h]

theorem fallAsleep_releasing (h : v.state = .releasing) : v.fallAsleep i =
    (v.becomeFree, (v.next.map (fun p => p.endPost .sleep 0)).getD []) := by
  rw [Voice.fallAsleep, h]

theorem fallAsleep_free (h : v.state = .free) : v.fallAsleep i = (v, []) := by
  rw [Voice.fallAsleep, h]

/-- Every voice is FREE after it, and one that was in use has an empty buffer. -/
theorem fallAsleep_frees (v : Voice) : (v.fallAsleep i).1.state = .free ∧
    (v.state ≠ .free → (v.fallAsleep i).1.buffer = []) := by
  cases h : v.state with
  | free => rw [fallAsleep_free i h]; exact ⟨h, fun hne => absurd rfl hne⟩
  | priming => rw [fallAsleep_live i (.inl h)]; exact ⟨rfl, fun _ => rfl⟩
  | playing => rw [fallAsleep_live i (.inr h)]; exact ⟨rfl, fun _ => rfl⟩
  | releasing => rw [fallAsleep_releasing i h]; exact ⟨rfl, fun _ => rfl⟩

theorem endPost_noLink (p : Play) (cause : CueCause) (n : Nat) {ask : SoundEffect} (h : ask ∈ p.endPost cause n) :
    ∀ a b c, ask ≠ .link a b c := by
  unfold Play.endPost at h
  split at h
  · rw [List.mem_singleton] at h
    subst h
    exact fun _ _ _ => SoundEffect.noConfusion
  · cases h

/-- A voice that falls asleep submits nothing. -/
theorem fallAsleep_noLink (v : Voice) {ask : SoundEffect} (h : ask ∈ (v.fallAsleep i).2) :
    ∀ a b c, ask ≠ .link a b c := by
  have hlive : ask ∈ v.play.endPost .sleep v.underruns ++ v.stopReport i → ∀ a b c, ask ≠ .link a b c := by
    intro h
    rcases List.mem_append.mp h with h | h
    · exact endPost_noLink _ _ _ h
    · unfold Voice.stopReport at h
      split at h
      · rw [List.mem_singleton] at h
        subst h
        exact fun _ _ _ => SoundEffect.noConfusion
      · cases h
  cases hstate : v.state with
  | free => rw [fallAsleep_free i hstate] at h; cases h
  | priming => rw [fallAsleep_live i (.inl hstate)] at h; exact hlive h
  | playing => rw [fallAsleep_live i (.inr hstate)] at h; exact hlive h
  | releasing =>
    rw [fallAsleep_releasing i hstate] at h
    cases hnext : v.next with
    | none => rw [hnext] at h; cases h
    | some p => rw [hnext] at h; exact endPost_noLink _ _ _ h

end

/-! ## SLEEP: what the Drive keeps while the voices report -/

/-- What the voices ask, none of it a submission, keeps whatever a voice's report keeps. -/
theorem withSound_rumble_of {P : Rumble → Prop} (hstopped : ∀ (r : Rumble) (i c : Nat), P r → P (r.voiceStopped i c).1)
    {asks : List SoundEffect} (hasks : ∀ ask ∈ asks, ∀ a b c, ask ≠ .link a b c) (x : Sound) {u : Ef24}
    (hu : P u.rumble) : P (u.withSound (x, asks)).rumble := by
  have hfold : ∀ v : Ef24, P v.rumble → P (asks.foldl Ef24.perform v).rumble := by
    induction asks with
    | nil => exact fun v hv => hv
    | cons ask asks ih =>
      intro v hv
      refine ih (fun a ha => hasks a (List.mem_cons_of_mem _ ha)) _ ?_
      cases ask with
      | post kind index detail => exact hv
      | link a b c => exact absurd rfl (hasks _ List.mem_cons_self a b c)
      | stopped i =>
        rw [Ef24.perform, Ef24.tellVoiceStopped, withRumble_eq]
        exact hstopped _ _ _ hv
  exact hfold _ hu

/-- The motor as a removal of the playing request leaves it: STOPPED, or at the start of the end brake (R92). -/
def Motor.ended (m : Motor) : Prop := m.state = .stopped ∨ (m.state = .braking ∧ m.brakeLeft = 4)

theorem endBrake_ended (m : Motor) : m.endBrake.ended := by
  unfold Motor.endBrake Motor.ended
  by_cases h : m.state = .stopped
  · rw [if_pos h]; exact .inl h
  · rw [if_neg h]; exact .inr ⟨rfl, rfl⟩

/-- A request plays, or the last one's removal has begun the end brake. -/
def Rumble.playsOrEnded (r : Rumble) : Prop := r.playing ≠ none ∨ r.motor.ended

/-- A voice's report that does not reach the playing request touches the queue alone. -/
theorem voiceStopped_unlinked {r : Rumble} {i : Nat} (c : Nat) (h : ∀ p, r.playing = some p → p.request.voice ≠ some i) :
    (r.voiceStopped i c).1 = { r with queue := r.queue.filter (fun x : Request => x.voice ≠ some i) } := by
  unfold Rumble.voiceStopped
  split
  next q hq =>
    obtain ⟨p, hp, rfl⟩ := Option.map_eq_some_iff.mp hq
    rw [if_neg (h p hp)]
  next => rfl

theorem voiceStopped_linked {r : Rumble} {i : Nat} {p : Playing} (c : Nat) (hp : r.playing = some p)
    (h : p.request.voice = some i) : (r.voiceStopped i c).1 = r.advanceQueue c := by
  unfold Rumble.voiceStopped
  rw [hp]
  dsimp only [Option.map_some]
  rw [if_pos h]

theorem advanceQueue_playsOrEnded (r : Rumble) (c : Nat) : (r.advanceQueue c).playsOrEnded := by
  unfold Rumble.advanceQueue
  cases r.queue with
  | nil => exact .inr (endBrake_ended _)
  | cons q rest => exact .inl (Option.some_ne_none _)

/-- A voice's report leaves a request playing, or the end brake begun. -/
theorem voiceStopped_playsOrEnded (r : Rumble) (i c : Nat) (h : r.playsOrEnded) : (r.voiceStopped i c).1.playsOrEnded := by
  by_cases hlinked : ∃ p, r.playing = some p ∧ p.request.voice = some i
  · obtain ⟨p, hp, hvoice⟩ := hlinked
    rw [voiceStopped_linked c hp hvoice]
    exact advanceQueue_playsOrEnded r c
  · rw [voiceStopped_unlinked c (fun p hp hvoice => hlinked ⟨p, hp, hvoice⟩)]
    exact h

/-- No request is left, and if one played (`had`) the end brake has begun. -/
def Rumble.emptied (had : Prop) (r : Rumble) : Prop := r.playing = none ∧ r.queue = [] ∧ (had → r.motor.ended)

theorem voiceStopped_emptied {had : Prop} (r : Rumble) (i c : Nat) (h : r.emptied had) :
    (r.voiceStopped i c).1.emptied had := by
  obtain ⟨hplaying, hqueue, hmotor⟩ := h
  rw [voiceStopped_unlinked c (fun p hp => by rw [hplaying] at hp; cases hp)]
  exact ⟨hplaying, by rw [hqueue]; rfl, hmotor⟩

/-- A removal of all empties the Drive. -/
theorem removeRumble_emptied {had : Prop} {u : Ef24} (cause : CutCause) (h : had → u.rumble.playsOrEnded) :
    (u.removeRumble cause).rumble.emptied had := by
  obtain ⟨hplaying, hqueue⟩ := removeRumble_empties u cause
  refine ⟨hplaying, hqueue, fun hhad => ?_⟩
  cases hp : u.rumble.playing with
  | none =>
    rw [removeRumble_idle cause hp, postAll_rumble]
    exact (h hhad).resolve_left (not_not_intro hp)
  | some p =>
    rw [removeRumble_playing cause hp, postAll_rumble]
    exact endBrake_ended _

/-- The voices' sleep keeps what a voice's report keeps. -/
theorem soundSleep_rumble_of {P : Rumble → Prop} (hstopped : ∀ (r : Rumble) (i c : Nat), P r → P (r.voiceStopped i c).1)
    {u : Ef24} (hu : P u.rumble) : P u.soundSleep.rumble := by
  obtain ⟨voices, hall, -⟩ := onAll_voices u.sound Voice.fallAsleep
  refine withSound_rumble_of hstopped (fun ask hask => ?_) _ hu
  rw [hall] at hask
  obtain ⟨i, -, hask⟩ := List.mem_flatMap.mp hask
  exact fallAsleep_noLink i _ hask

/-! ## SLEEP: the six orders of the reactions (R180) -/

theorem soundSleep_sound (u : Ef24) : u.soundSleep.sound = { (u.sound.onAll Voice.fallAsleep).1 with aout := 0 } :=
  withSound_sound ..

theorem removeRumble_sound (u : Ef24) (cause : CutCause) : (u.removeRumble cause).sound = u.sound := by
  rw [removeRumble_eq]

theorem abortLoad_closes (u : Ef24) : ∀ l, u.abortLoad.loader = some l → l.phase = .checking := by
  intro l hl
  unfold Ef24.abortLoad at hl
  by_cases hopen : u.loadOpen = true
  · rw [if_pos hopen] at hl
    cases hl
  · rw [if_neg hopen] at hl
    by_contra hphase
    exact hopen ((loadOpen_iff u).mpr ⟨l, hl, hphase⟩)

/-- In whatever order, the voices do the same. -/
theorem reactToSleep_sound (u : Ef24) (n : Nat) : (u.reactToSleep n).sound = u.soundSleep.sound := by
  unfold Ef24.reactToSleep
  split <;> simp only [soundSleep_sound, removeRumble_sound, abortLoad_sound]

/-- In whatever order, no load is left open. -/
theorem reactToSleep_loader (u : Ef24) (n : Nat) : ∀ l, (u.reactToSleep n).loader = some l → l.phase = .checking := by
  have hsound : ∀ v : Ef24, v.soundSleep.loader = v.loader := fun v => by rw [soundSleep_eq]
  have hrumble : ∀ v : Ef24, (v.removeRumble .sleep).loader = v.loader := fun v => by rw [removeRumble_eq]
  unfold Ef24.reactToSleep
  split
  · exact abortLoad_closes _
  · rw [hrumble]; exact abortLoad_closes _
  · exact abortLoad_closes _
  · rw [hsound]; exact abortLoad_closes _
  · rw [hrumble, hsound]; exact abortLoad_closes _
  · rw [hsound, hrumble]; exact abortLoad_closes _

/-- In whatever order, the Drive is emptied. -/
theorem reactToSleep_rumble (u : Ef24) (n : Nat) : (u.reactToSleep n).rumble.emptied (u.rumble.playing ≠ none) := by
  have hbefore : ∀ v : Ef24, v.rumble = u.rumble → u.rumble.playing ≠ none → v.soundSleep.rumble.playsOrEnded :=
    fun v hv hplays => soundSleep_rumble_of voiceStopped_playsOrEnded (.inl (by rwa [hv]))
  have hafter : ∀ {v : Ef24}, v.rumble.emptied (u.rumble.playing ≠ none) →
      v.soundSleep.rumble.emptied (u.rumble.playing ≠ none) := fun hv => soundSleep_rumble_of voiceStopped_emptied hv
  have hfirst : ∀ v : Ef24, v.rumble = u.rumble → (v.removeRumble .sleep).rumble.emptied (u.rumble.playing ≠ none) :=
    fun v hv => removeRumble_emptied .sleep fun hplays => .inl (by rwa [hv])
  unfold Ef24.reactToSleep
  split
  · rw [abortLoad_rumble]; exact removeRumble_emptied .sleep (hbefore u rfl)
  · refine removeRumble_emptied .sleep ?_
    rw [abortLoad_rumble]
    exact hbefore u rfl
  · rw [abortLoad_rumble]; exact hafter (hfirst u rfl)
  · refine hafter ?_
    rw [abortLoad_rumble]
    exact hfirst u rfl
  · exact removeRumble_emptied .sleep (hbefore _ (abortLoad_rumble u))
  · exact hafter (hfirst _ (abortLoad_rumble u))

/-- The reactions come in one of six orders. -/
theorem reactToSleep_mem (u : Ef24) (n : Nat) : u.reactToSleep n ∈
    [(u.soundSleep.removeRumble .sleep).abortLoad, u.soundSleep.abortLoad.removeRumble .sleep,
      (u.removeRumble .sleep).soundSleep.abortLoad, (u.removeRumble .sleep).abortLoad.soundSleep,
      u.abortLoad.soundSleep.removeRumble .sleep, (u.abortLoad.removeRumble .sleep).soundSleep] := by
  match n with
  | 0 => exact .head _
  | 1 => exact .tail _ (.head _)
  | 2 => exact .tail _ (.tail _ (.head _))
  | 3 => exact .tail _ (.tail _ (.tail _ (.head _)))
  | 4 => exact .tail _ (.tail _ (.tail _ (.tail _ (.head _))))
  | _ + 5 => exact .tail _ (.tail _ (.tail _ (.tail _ (.tail _ (.head _)))))

/-- The Table Loader's reaction, by its phase. -/
theorem abortLoad_cases (u : Ef24) : u.abortLoad = match u.loader with
    | some l => if l.phase = .checking then u else { u with loader := none }.postDone .loadTable .aborted 0
    | none => u := by
  unfold Ef24.abortLoad Ef24.loadOpen
  cases u.loader with
  | none => rfl
  | some l => by_cases h : l.phase = .checking <;> simp [h, Ef24.endLoad]

/-- Settles O45: SLEEP by the chip state, the fall asleep by its five conditions, a voice by its state. -/
theorem sleepEntersAndCompletes : Obligations.SleepEntersAndCompletes := by
  refine ⟨?sleep, ?asleep, ?voices⟩
  case sleep =>
    intro s u entering sound rumble load hpasses
    have hexec : exec .sleep s = s.answering u.sleep := (exec_sleep s).trans (runFrame_passes _ hpasses)
    rw [hexec, Ef24.sleep]
    clear_value u
    refine ⟨fun hchip => by rw [if_pos hchip], fun hchip => ⟨u.enterSleep, ?_, ?mem, ?chip, ?freed, ?emptied⟩⟩
    · rw [if_neg (by rw [hchip]; decide)]
    case mem =>
      have hload : ∀ x : Ef24, x.abortLoad = load x := abortLoad_cases
      have hmem := reactToSleep_mem entering (Config.sleepOrder u.free % 6)
      simp only [hload] at hmem
      exact hmem
    case chip => rw [Ef24.enterSleep, reactToSleep_eq]
    case freed =>
      obtain ⟨voices, hall, hvoices⟩ := onAll_voices u.sound Voice.fallAsleep
      intro i hi
      have hvoice : u.enterSleep.sound.voice i = ((u.sound.voice i).fallAsleep i).1 := by
        rw [Ef24.enterSleep, reactToSleep_sound, soundSleep_sound, hall]
        exact hvoices i hi
      rw [hvoice]
      exact fallAsleep_frees i _
    case emptied =>
      obtain ⟨hplaying, hqueue, hmotor⟩ := reactToSleep_rumble entering (Config.sleepOrder u.free % 6)
      refine ⟨hplaying, hqueue, hmotor, reactToSleep_loader _ _, ?_⟩
      rw [Ef24.enterSleep, reactToSleep_eq]
      exact ⟨rfl, rfl, rfl, rfl, rfl, rfl, rfl, rfl⟩
  case asleep =>
    intro s u hchip hloader hsequencer hbuffer hmotor hvoices
    have hdue : u.sleepDue = true := (sleepDue_iff u).mpr ⟨hchip, hloader, hsequencer, hbuffer, hmotor, hvoices⟩
    have hrun : u.coreRunning = true := (coreRunning_iff u).mpr (.inr (.inl hchip))
    have hreached : u.asleepReached = u.fallAsleep.conclude := event_due Ef24.fallAsleep hrun hdue
    rw [exec_asleepReached]
    exact congrArg s.becoming hreached
  case voices =>
    intro v i ended freed
    refine ⟨fun h => ?_, fun h => ?_, fallAsleep_free i⟩
    · rw [fallAsleep_live i h, endPost_eq]
      rfl
    · rw [fallAsleep_releasing i h]
      cases v.next with
      | none => rfl
      | some p =>
        dsimp only [Option.map_some, Option.getD_some]
        rw [endPost_eq]
        rfl

/-! ## WAKE (R165, R182) -/

/-- Settles O46. -/
theorem wakeDeliversPending : Obligations.WakeDeliversPending := by
  intro s u cleared deliver hpasses
  have hexec : exec .wake s = s.answering u.wake := (exec_wake s).trans (runFrame_passes _ hpasses)
  rw [hexec, Ef24.wake]
  clear_value u
  refine ⟨fun hchip => ?_, fun hchip => ?_, fun hchip => ?_⟩
  · rw [if_pos hchip]
    rfl
  · rw [if_neg (by rw [hchip]; decide), if_pos hchip]
  · rw [if_neg (by rw [hchip]; decide), if_neg (by rw [hchip]; decide)]

end Sys2Proof.Machine
end

section
/-! PROOFS. The ROM port (Chapter 2): a line fetch's words (R19, R28, R29), the line taken (R70, R73, R44), the Fetch Arbiter
(R23, R24, R26, R27). -/

namespace Sys2Proof.Machine

/-! ## The words of a line fetch -/

theorem whileRunning_running {u : Ef24} (f : Ef24 → Ef24) (h : u.coreRunning = true) : u.whileRunning f = f u := if_pos h

/-- The word a fetch reads: FFFFh beyond the strapped capacity. -/
theorem lineWord_eq (u : Ef24) (a : Nat) :
    u.lineWord a = if a < 2048 * Config.romPages u.romCode then u.rom.read a else 0xFFFF := by
  unfold Ef24.lineWord Config.romWords
  rw [Nat.mul_comm]
  rfl

section
variable {u : Ef24} {f : Fetch} (hfetch : u.romPort = .fetching f)
include hfetch

theorem fetchWord_early (h : f.words.length < 7) :
    u.fetchWord =
      { u with romPort := .fetching { f with words := f.words ++ [u.lineWord (f.line + f.words.length)] } } := by
  rw [Ef24.fetchWord, hfetch]
  exact if_pos h

theorem fetchWord_last (h : f.words.length = 7) : u.fetchWord = u.completeFetch f := by
  rw [Ef24.fetchWord, hfetch]
  exact if_neg (by omega)

theorem fetchComplete_early (h : f.words.length < 7) : u.fetchComplete = u := by
  rw [Ef24.fetchComplete, hfetch]
  exact if_pos h

theorem fetchComplete_last (h : f.words.length = 7) : u.fetchComplete = u.completeFetch f := by
  rw [Ef24.fetchComplete, hfetch]
  exact if_neg (by omega)

end

section
variable (u : Ef24) {f : Fetch}

theorem completeFetch_orphan (h : f.orphan = true) : u.completeFetch f = { u with romPort := .idle } := if_pos h

theorem completeFetch_handsOver (h : f.orphan = false) :
    u.completeFetch f = ({ u with romPort := .idle } : Ef24).handOver f.requester f.line
      (f.words ++ [u.lineWord (f.line + f.words.length)]) :=
  if_neg (by rw [h]; exact Bool.false_ne_true)

end

/-! ## The line taken by a voice (R70, R73) -/

/-- A voice keeps the words it needs, and plays when it has enough. -/
theorem takeLine_eq (v : Voice) (i line : Nat) (words : List Word) :
    let e := v.play.entry
    let kept := if line ≤ v.fetchPoint then (words.drop (v.fetchPoint - line)).take (e.endWord - v.fetchPoint) else []
    let reached := v.fetchPoint + kept.length
    let taken : Voice := { v with
      buffer := v.buffer ++ kept
      fetchPoint := if e.loopNone = false ∧ e.endWord ≤ reached then e.start.toNat + e.loopStart.toNat / e.perWord
        else reached }
    v.takeLine i line words =
      if v.state = .priming ∧ (8 ≤ v.buffer.length + kept.length ∨ e.endWord ≤ reached) then taken.enterPlaying i
      else (taken, []) := by
  intro e kept reached taken
  have hloops : v.loops = true ↔ e.loopNone = false := by
    unfold Voice.loops
    rw [Bool.not_eq_true']
  have hlength : (v.buffer ++ kept).length = v.buffer.length + kept.length := List.length_append
  unfold Voice.takeLine
  simp only [hloops, ← hlength]
  rfl

/-! ## Who requests a fetch, and who gets it (R23, R24, R26, R27) -/

theorem holdsRequest_voice_iff (u : Ef24) (i : Nat) : u.holdsRequest (.voice i) = true ↔
    ((u.sound.voice i).state = .priming ∨ (u.sound.voice i).state = .playing) ∧
      (u.sound.voice i).play.entry.isTone = false ∧ (u.sound.voice i).buffer.length ≤ 24 ∧
      ((u.sound.voice i).play.entry.loopNone = false ∨
        (u.sound.voice i).fetchPoint < (u.sound.voice i).play.entry.endWord) := by
  unfold Ef24.holdsRequest Voice.requests Voice.wordsLeft Voice.loops
  simp only [Bool.and_eq_true, live_iff, Bool.not_eq_true', decide_eq_true_iff, Bool.or_eq_true, and_assoc]

theorem holdsRequest_loader_iff (u : Ef24) : u.holdsRequest .loader = true ↔
    ∃ l, u.loader = some l ∧ l.phase = .fetching ∧ l.staged.length < l.count * l.table.entrySize := by
  unfold Ef24.holdsRequest Load.needed
  cases u.loader <;> simp

section
variable {u : Ef24}

theorem updateRomPort_held_core (h : u.coreRunning = false) : u.updateRomPort = u :=
  if_neg (by rw [h]; exact Bool.false_ne_true)

variable (hrun : u.coreRunning = true)
include hrun

theorem updateRomPort_romPort_running : u.updateRomPort.romPort = u.markOrphan.grantFetch.romPort :=
  congrArg Ef24.romPort (if_pos hrun)

/-- During a fetch the port's part is the orphan mark: set once its requester has given up. -/
theorem updateRomPort_fetching {f : Fetch} (hport : u.romPort = .fetching f) :
    u.updateRomPort =
      { u with romPort := .fetching { f with orphan := f.orphan || !u.holdsRequest f.requester } } := by
  have hromPort : u.updateRomPort.romPort =
      .fetching { f with orphan := f.orphan || !u.holdsRequest f.requester } := by
    rw [updateRomPort_romPort_running hrun, grantFetch_romPort, markOrphan_romPort, hport]
    cases hholds : u.holdsRequest f.requester with
    | true => simp [hholds]
    | false => simp [hholds]
  rw [updateRomPort_eq, hromPort]

/-- An idle port is granted to the Fetch Arbiter's winner. -/
theorem updateRomPort_idle (hport : u.romPort = .idle) :
    u.updateRomPort.romPort = match u.fetchWinner with
      | some r => .fetching { requester := r, line := u.lineAddress r, words := [], orphan := false }
      | none => .idle := by
  have hmark : u.markOrphan = u := by
    rw [Ef24.markOrphan, hport]
  rw [updateRomPort_romPort_running hrun, hmark, grantFetch_romPort, hport]
  cases u.fetchWinner <;> rfl

theorem updateRomPort_granted {r : Requester} (hport : u.romPort = .idle) (hwins : u.fetchWinner = some r) :
    u.updateRomPort =
      { u with romPort := .fetching { requester := r, line := u.lineAddress r, words := [], orphan := false } } := by
  rw [updateRomPort_eq, updateRomPort_idle hrun hport, hwins]

theorem updateRomPort_unasked (hport : u.romPort = .idle) (hnone : u.fetchWinner = none) : u.updateRomPort = u := by
  rw [updateRomPort_eq, updateRomPort_idle hrun hport, hnone]
  exact congrArg (fun p => { u with romPort := p }) hport.symm

end

/-- The requesters are the six voices and the Loader. -/
theorem mem_requesters (r : Requester) : r ∈ requesters ↔ (∃ i, i < 6 ∧ r = .voice i) ∨ r = .loader := by
  simp only [requesters, List.mem_append, List.mem_map, mem_voiceNumbers, List.mem_singleton, eq_comm]

/-- A voice wins that has fewer words than those before it and no more than those after it. -/
theorem fetchWinner_voice {u : Ef24} {i : Nat} (hi : i < 6) (hasks : u.holdsRequest (.voice i) = true)
    (hleast : ∀ j, j < 6 → u.holdsRequest (.voice j) = true →
      (u.sound.voice i).buffer.length < (u.sound.voice j).buffer.length ∨
        ((u.sound.voice i).buffer.length = (u.sound.voice j).buffer.length ∧ i ≤ j))
    (hloader : u.holdsRequest .loader = true → (u.sound.voice i).buffer.length ≤ 16) :
    u.fetchWinner = some (.voice i) := by
  unfold Ef24.fetchWinner
  rw [requesters_split i hi, filter_split _ _ _ _ hasks]
  refine betterRequester_fold u _ _ _ (fun r hr => ?before) (fun r hr => ?after)
  case before =>
    obtain ⟨hmem, hholds⟩ := List.mem_filter.mp hr
    obtain ⟨j, hj, rfl⟩ := List.mem_map.mp hmem
    have hji := List.mem_range.mp hj
    have := hleast j (by omega) hholds
    show (u.sound.voice i).buffer.length < (u.sound.voice j).buffer.length
    omega
  case after =>
    obtain ⟨hmem, hholds⟩ := List.mem_filter.mp hr
    rcases List.mem_append.mp hmem with hmem | hmem
    · obtain ⟨j, hj, rfl⟩ := List.mem_map.mp hmem
      have hji := List.mem_range'_1.mp hj
      have := hleast j (by omega) hholds
      show (u.sound.voice i).buffer.length ≤ (u.sound.voice j).buffer.length
      omega
    · rw [List.mem_singleton] at hmem
      subst hmem
      exact hloader hholds

/-- The Loader wins when every voice that asks has more words than it counts as. -/
theorem fetchWinner_loader {u : Ef24} (hasks : u.holdsRequest .loader = true)
    (hmore : ∀ j, j < 6 → u.holdsRequest (.voice j) = true → 16 < (u.sound.voice j).buffer.length) :
    u.fetchWinner = some .loader := by
  unfold Ef24.fetchWinner requesters
  rw [filter_split _ _ [] _ hasks]
  refine betterRequester_fold u _ _ _ (fun r hr => ?_) (fun r hr => by cases hr)
  obtain ⟨hmem, hholds⟩ := List.mem_filter.mp hr
  obtain ⟨j, hj, rfl⟩ := List.mem_map.mp hmem
  exact hmore j (mem_voiceNumbers.mp hj) hholds

theorem fetchWinner_none {u : Ef24} (hvoices : ∀ j, j < 6 → ¬ u.holdsRequest (.voice j) = true)
    (hloader : u.holdsRequest .loader = false) : u.fetchWinner = none := by
  have hnone : requesters.filter u.holdsRequest = [] := by
    rw [List.filter_eq_nil_iff]
    intro r hr
    rcases (mem_requesters r).mp hr with ⟨j, hj, rfl⟩ | rfl
    · exact hvoices j hj
    · rw [hloader]
      exact Bool.false_ne_true
  rw [Ef24.fetchWinner, hnone]
  rfl

/-- Settles O48: the word that arrives by how many have, the line by its orphan mark and requester; the line taken; the
Fetch Arbiter by the port's state and by who asks. -/
theorem lineFetchWordsAndCompletion : Obligations.LineFetchWordsAndCompletion := by
  refine ⟨?words, ?lines, fun l words => rfl, ?arbiter, rfl, fun e => rfl⟩
  case words =>
    intro s f u
    have hword : exec .lineFetchWord s = s.answering (u.whileRunning Ef24.fetchWord) := exec_lineFetchWord s
    have hcomplete : exec .lineFetchComplete s = s.answering (u.whileRunning Ef24.fetchComplete) :=
      exec_lineFetchComplete s
    clear_value u
    intro a w freed hrun hport
    have hw : u.lineWord (f.line + f.words.length) = w := lineWord_eq u a
    rw [whileRunning_running _ hrun] at hword hcomplete
    refine ⟨fun hlength => ⟨?_, ?_⟩, fun hlength c hc => ?_⟩
    · rw [hword, fetchWord_early hport hlength, hw]
    · rw [hcomplete, fetchComplete_early hport hlength]
    · have hexec : exec c s = s.answering (u.completeFetch f) := by
        fin_cases hc
        · exact hword.trans (congrArg s.answering (fetchWord_last hport hlength))
        · exact hcomplete.trans (congrArg s.answering (fetchComplete_last hport hlength))
      rw [hexec]
      refine ⟨fun horphan => ?_, fun i horphan hvoice => ?_, fun horphan hloader => ?_⟩
      · rw [completeFetch_orphan u horphan]
      · rw [completeFetch_handsOver u horphan, hvoice, hw]
        rfl
      · rw [completeFetch_handsOver u horphan, hloader, hw]
        rfl
  case lines =>
    intro v i line words e kept reached taken plays
    have htaken := takeLine_eq v i line words
    exact ⟨fun h => htaken.trans (if_pos h), fun h => htaken.trans (if_neg h)⟩
  case arbiter =>
    intro u buffered asks granted
    refine ⟨holdsRequest_voice_iff u, holdsRequest_loader_iff u, updateRomPort_held_core, fun hrun =>
      ⟨fun f hport => updateRomPort_fetching hrun hport, fun i hport hi hleast hloader => ?voice,
        fun l hport hload hasks hmore => ?loader, fun hport hvoices hloader => ?none⟩⟩
    case voice =>
      exact updateRomPort_granted hrun hport
        (fetchWinner_voice hi.1 hi.2 (fun j hj hasks => hleast j ⟨hj, hasks⟩) hloader)
    case loader =>
      have hline : u.lineAddress .loader = l.source.getD 0 + l.staged.length := by
        rw [Ef24.lineAddress, hload]
      have hgrant := updateRomPort_granted hrun hport
        (fetchWinner_loader hasks (fun j hj hasks => hmore j ⟨hj, hasks⟩))
      rw [hline] at hgrant
      exact hgrant
    case none =>
      exact updateRomPort_unasked hrun hport (fetchWinner_none (fun j hj hasks => hvoices j ⟨hj, hasks⟩) hloader)

end Sys2Proof.Machine
end

section
/-! PROOFS. The owners' checks of a load (R13, R14, R51, R63, R87, R159): what offends, table by table. -/

namespace Sys2Proof.Machine

/-! ## Windows (R13, R14) -/

/-- What an entry of the Window Table fails by itself. -/
theorem windowFails_iff (u : Ef24) (e : WindowEntry) :
    let k := e.kindNamed
    let save := k = some .saveStage ∨ k = some .saveLive
    u.windowFails e = true ↔
      k = none ∨ (k ≠ some .unused ∧ 256 < e.base.toNat + e.span) ∨
        (k = some .rom ∧ Config.romPages u.romCode < e.romPage + e.bankCount * e.span) ∨
        ((save ∨ k = some .flags) ∧ u.save.volume ≠ .ready) ∨ (save ∧ u.save.slotCount ≤ e.slot) ∨
        (k = some .trigger ∧ (e.actionCount = 0 ∨ 64 < e.actionBase + e.actionCount)) := by
  intro k save
  have hcount : 64 < e.actionCount → 64 < e.actionBase + e.actionCount := by omega
  unfold Ef24.windowFails save k
  cases e.kindNamed with
  | none => simp
  | some kind =>
    cases kind with
    | trigger =>
      simp only [Bool.or_eq_true, decide_eq_true_iff, reduceCtorEq, Option.some.injEq, ne_eq, not_false_iff, true_and,
        false_and, false_or, or_false]
      omega
    | _ => simp [or_assoc]

/-- Two entries overlap when a block is in both. -/
theorem overlaps_iff (e f : WindowEntry) : e.overlaps f = true ↔
    ∃ block, f.holdsBlock block = true ∧ e.holdsBlock block = true := by
  have hspan : 0 < e.span ∧ 0 < f.span := ⟨Nat.succ_pos _, Nat.succ_pos _⟩
  unfold WindowEntry.overlaps WindowEntry.holdsBlock
  simp only [Bool.and_eq_true, decide_eq_true_iff]
  constructor
  · rintro ⟨⟨he, hf⟩, h1, h2⟩
    exact ⟨max e.base.toNat f.base.toNat, ⟨hf, by omega, by omega⟩, he, by omega, by omega⟩
  · rintro ⟨block, ⟨hf, h1, h2⟩, he, h3, h4⟩
    exact ⟨⟨he, hf⟩, by omega, by omega⟩

/-- A table's entries have a property together when one of them has it. -/
theorem table_any_iff {α : Type} {n : Nat} (t : Vector α n) (beyond : α) (p : α → Bool) :
    t.toList.any p = true ↔ ∃ j, j < n ∧ p (Table.get t j beyond) = true := by
  have hlength : t.toList.length = n := by simp
  have hget : ∀ j (h : j < t.toList.length), Table.get t j beyond = t.toList[j] := fun j h => List.getD_eq_getElem _ _ h
  rw [List.any_eq_true]
  constructor
  · rintro ⟨x, hx, hp⟩
    obtain ⟨j, hj, rfl⟩ := List.getElem_of_mem hx
    exact ⟨j, by omega, by rwa [hget j hj]⟩
  · rintro ⟨j, hj, hp⟩
    have hj : j < t.toList.length := by omega
    exact ⟨t.toList[j], List.getElem_mem hj, by rwa [← hget j hj]⟩

theorem lower_any_iff {α : Type} (f : Nat → α) (p : α → Bool) (i : Nat) :
    ((upTo i).map f).any p = true ↔ ∃ j, j < i ∧ p (f j) = true := by
  simp [upTo]

/-- What offends in a resulting Window Table. -/
theorem windowOffends_iff (u : Ef24) (t : Vector WindowEntry 16) (first i : Nat) :
    let window (i : Nat) := Table.get t i WindowEntry.unused
    let covers (e : WindowEntry) (block : Nat) :=
      e.kindNamed ≠ some .unused ∧ e.base.toNat ≤ block ∧ block < e.base.toNat + e.span
    u.windowOffends t first i = true ↔
      u.windowFails (window i) = true ∨
        (∃ j block, j < i ∧ covers (window j) block ∧ covers (window i) block) ∨
        ((window i).kindNamed = some .control ∧ ∃ j, j < i ∧ (window j).kindNamed = some .control) ∨
        (i = first ∧ ∀ j, j < 16 → (window j).kindNamed ≠ some .control) := by
  intro window covers
  have hcontrol : ∀ e : WindowEntry, e.isControl = true ↔ e.kindNamed = some .control := fun e => beq_iff_eq
  have hoverlap : (∃ j, j < i ∧ (window i).overlaps (window j) = true) ↔
      ∃ j block, j < i ∧ covers (window j) block ∧ covers (window i) block := by
    simp only [overlaps_iff, WindowEntry.holdsBlock_iff]
    exact exists_congr fun j => ⟨fun ⟨hj, block, h⟩ => ⟨block, hj, h⟩, fun ⟨block, hj, h⟩ => ⟨hj, block, h⟩⟩
  have hnone : (!t.toList.any (·.isControl)) = true ↔ ∀ j, j < 16 → (window j).kindNamed ≠ some .control := by
    rw [Bool.not_eq_true', ← Bool.not_eq_true, table_any_iff t WindowEntry.unused]
    simp only [hcontrol, not_exists, not_and]
    rfl
  rw [← hoverlap, ← hnone]
  unfold Ef24.windowOffends
  simp only [Bool.or_eq_true, Bool.and_eq_true, decide_eq_true_iff, lower_any_iff, hcontrol, or_assoc]
  rfl

/-! ## Actions, cues, patterns, the schedule (R51, R63, R87, R159) -/

/-- A field that may be none, and is above a bound. -/
theorem optionalWord_any_iff (w : Word) (bound : Nat) :
    (optionalWord w).any (fun x => decide (bound < x)) = true ↔ w ≠ 0xFFFF ∧ bound < w.toNat := by
  unfold optionalWord noneWord
  split <;> simp_all

theorem actionOffends_iff (e : ActionEntry) : e.offends = true ↔
    e.kindNamed = none ∨
      ((e.kindNamed = some .playCue ∨ e.kindNamed = some .rumble) ∧ e.operandB ≠ 0xFFFF ∧ 7 < e.operandB.toNat) ∨
      (e.kindNamed ≠ some .invalid ∧ e.next ≠ 0xFFFF ∧ 63 < e.next.toNat) := by
  rw [← optionalWord_any_iff, ← optionalWord_any_iff]
  unfold ActionEntry.offends
  cases e.kindNamed with
  | none => simp
  | some kind => cases kind <;> simp

/-- A linked pattern beyond the pattern headers. -/
theorem linkedPattern_any_iff (e : CueEntry) :
    e.linkedPattern.any (fun p => decide (31 < p)) = true ↔ e.linked ≠ 255 ∧ 31 < e.linked.toNat := by
  unfold CueEntry.linkedPattern
  split <;> simp_all

theorem cueOffends_iff (e : CueEntry) (romWords : Nat) : e.offends romWords = true ↔
    e.formatNamed = none ∨
      (e.length ≠ 0 ∧
        ((e.linked ≠ 255 ∧ 31 < e.linked.toNat) ∨
          (e.formatNamed = some .tone ∧
            (65535 < e.length.toNat ∨ e.rate.toNat < 20 ∨ 8000 < e.rate.toNat ∨ e.loopNone = false)) ∨
          (e.formatNamed ≠ some .tone ∧
            (e.rate.toNat < 1000 ∨ 32768 < e.rate.toNat ∨
              (e.loopNone = false ∧ e.length.toNat ≤ e.loopStart.toNat) ∨ romWords < e.endWord)))) := by
  have hempty : (!e.isEmpty) = true ↔ e.length ≠ 0 := by
    rw [Bool.not_eq_true', ← Bool.not_eq_true, isEmpty_iff]
  rw [← hempty, ← linkedPattern_any_iff]
  unfold CueEntry.offends
  cases e.formatNamed with
  | none => simp
  | some format =>
    cases format with
    | tone =>
      simp only [Bool.and_eq_true, Bool.or_eq_true, decide_eq_true_iff, Bool.not_eq_true', reduceCtorEq, ne_eq,
        not_true_eq_false, false_and, false_or, or_false, true_and]
      tauto
    | _ =>
      simp only [Bool.and_eq_true, Bool.or_eq_true, decide_eq_true_iff, Bool.not_eq_true', reduceCtorEq,
        Option.some.injEq, ne_eq, not_false_eq_true, false_and, false_or, true_and]
      tauto

theorem headerOffends_iff (h : Header) : h.offends = true ↔
    64 < h.stepCount.toNat ∨ (1 ≤ h.stepCount.toNat ∧ 512 < h.firstStep.toNat + h.stepCount.toNat) := by
  unfold Header.offends
  simp only [Bool.or_eq_true, Bool.and_eq_true, decide_eq_true_iff]

theorem stepOffends_iff (x : PatternStep) : x.offends = true ↔ x.kindNamed = none := Option.isNone_iff_eq_none

theorem entryOffends_iff (e : ScheduleEntry) : e.offends = true ↔
    e.kindNamed = none ∨ (e.kindNamed ≠ some .unused ∧ 63 < e.action.toNat) ∨
      (e.kindNamed = some .atTime ∧ (23 < e.hour ∨ 59 < e.minute)) := by
  unfold ScheduleEntry.offends
  cases e.kindNamed with
  | none => simp
  | some kind => cases kind <;> simp [or_assoc]

end Sys2Proof.Machine
end

section
/-! PROOFS. TABLE CHECK (R15, R45) and the images of the tables' entries (section 13.4). -/

namespace Sys2Proof.Machine

/-! ## The check's two ends (R45) -/

section
variable {u : Ef24} {l : Load} (hload : u.loader = some l) (hphase : l.phase = .checking)
include hload hphase

theorem checkLoad_refuses {n : Nat} (h : u.offender l = some n) :
    u.checkLoad = { u with loader := none }.postDone .loadTable .refusedEntry n := by
  rw [Ef24.checkLoad, hload]
  dsimp only
  rw [if_pos hphase, h]
  rfl

theorem checkLoad_swaps (h : u.offender l = none) :
    u.checkLoad = { u.swap l with loader := none }.postDone .loadTable .ok 0 := by
  rw [Ef24.checkLoad, hload]
  dsimp only
  rw [if_pos hphase, h]
  rfl

end

/-- The lowest offender of the table a load fills. -/
theorem offender_iff (u : Ef24) (l : Load) (P : Nat → Prop)
    (hwindows : l.table = .windows → ∀ i, P i ↔ i < 16 ∧ u.windowOffends (u.windowsAfter l) l.first i = true)
    (hactions : l.table = .actions → ∀ i, P i ↔ i < 64 ∧ (Table.get (u.actionsAfter l) i ActionEntry.invalid).offends = true)
    (hcues : l.table = .cues → ∀ i, P i ↔
      i < 128 ∧ (Table.get (u.cuesAfter l) i CueEntry.empty).offends (Config.romWords u.romCode) = true)
    (hpatterns : l.table = .patterns → ∀ i, P i ↔ i < 32 ∧ (Table.get (u.headersAfter l) i Header.empty).offends = true)
    (hsteps : l.table = .steps → ∀ i, P i ↔ i < 512 ∧ (Table.get (u.stepsAfter l) i PatternStep.empty).offends = true)
    (hschedule : l.table = .schedule → ∀ i, P i ↔
      i < 16 ∧ (Table.get (u.scheduleAfter l) i ScheduleEntry.unused).offends = true) :
    (∀ n, u.offender l = some n ↔ P n ∧ ∀ m, P m → n ≤ m) ∧ (u.offender l = none ↔ ∀ m, ¬ P m) := by
  unfold Ef24.offender
  cases htable : l.table with
  | windows => simp only [hwindows htable]; exact lowestOffender_iff _ _ _ fun _ _ => Iff.rfl
  | actions => simp only [hactions htable]; exact lowestOffender_iff _ _ _ fun _ _ => Iff.rfl
  | cues => simp only [hcues htable]; exact lowestOffender_iff _ _ _ fun _ _ => Iff.rfl
  | patterns => simp only [hpatterns htable]; exact lowestOffender_iff _ _ _ fun _ _ => Iff.rfl
  | steps => simp only [hsteps htable]; exact lowestOffender_iff _ _ _ fun _ _ => Iff.rfl
  | schedule => simp only [hschedule htable]; exact lowestOffender_iff _ _ _ fun _ _ => Iff.rfl

/-! ## The fields of an image that is loaded (section 13.4) -/

theorem windowOfImage_eq (ws : List Word) :
    WindowEntry.ofImage ws =
      { base := (ws.getD 0 0).extractLsb' 8 8, kind := (ws.getD 0 0).extractLsb' 0 4,
        spanCode := (ws.getD 1 0).extractLsb' 0 8, target := (ws.getD 2 0).extractLsb' 0 13,
        bankSelect := (ws.getD 3 0).getLsbD 15, count := (ws.getD 3 0).extractLsb' 0 8, bank := 0 } := by
  unfold WindowEntry.ofImage imageWord
  simp only [ofNat_get]

theorem actionOfImage_eq (ws : List Word) :
    ActionEntry.ofImage ws =
      { kind := (ws.getD 0 0).extractLsb' 0 4, operandA := ws.getD 1 0, operandB := ws.getD 2 0, next := ws.getD 3 0 } := by
  unfold ActionEntry.ofImage imageWord
  simp only [ofNat_get]

theorem cueOfImage_eq (ws : List Word) :
    CueEntry.ofImage ws =
      { notify := (ws.getD 0 0).getLsbD 11, priority := (ws.getD 0 0).extractLsb' 8 3,
        volume := (ws.getD 0 0).extractLsb' 4 4, format := (ws.getD 0 0).extractLsb' 0 3,
        linked := (ws.getD 1 0).extractLsb' 0 8, start := (ws.getD 1 0).extractLsb' 8 8 ++ ws.getD 2 0,
        length := (ws.getD 3 0).extractLsb' 0 8 ++ ws.getD 4 0, loopNone := (ws.getD 5 0).getLsbD 15,
        loopStart := (ws.getD 5 0).extractLsb' 0 8 ++ ws.getD 6 0, rate := ws.getD 7 0 } := by
  unfold CueEntry.ofImage imageWord
  simp only [ofNat_get]
  simp only [get_toNat, ofNat_twoWords]

theorem headerOfImage_eq (ws : List Word) :
    Header.ofImage ws =
      { stepCount := (ws.getD 0 0).extractLsb' 9 7, firstStep := (ws.getD 0 0).extractLsb' 0 9,
        notify := (ws.getD 1 0).getLsbD 7, priority := (ws.getD 1 0).extractLsb' 4 3,
        repeats := (ws.getD 1 0).extractLsb' 0 4 } := by
  unfold Header.ofImage imageWord
  simp only [ofNat_get]

theorem stepOfImage_eq (ws : List Word) :
    PatternStep.ofImage ws =
      { kind := (ws.getD 0 0).extractLsb' 14 2, strength := (ws.getD 0 0).extractLsb' 8 4,
        duration := (ws.getD 0 0).extractLsb' 0 8 } := by
  unfold PatternStep.ofImage imageWord
  simp only [ofNat_get]

theorem entryOfImage_eq (ws : List Word) :
    ScheduleEntry.ofImage ws =
      { kind := (ws.getD 0 0).extractLsb' 0 4, enabled := (ws.getD 0 0).getLsbD 4, wake := (ws.getD 0 0).getLsbD 5,
        action := (ws.getD 1 0).extractLsb' 0 8, word2 := ws.getD 2 0, word3 := ws.getD 3 0, pending := false,
        fired := false } := by
  unfold ScheduleEntry.ofImage imageWord
  simp only [ofNat_get]

/-! ## The kinds and the parts of an entry -/

theorem windowKind_eq (e : WindowEntry) :
    e.kindNamed = [WindowKind.unused, .rom, .saveStage, .saveLive, .flags, .trigger, .control][e.kind.toNat]? := by
  unfold WindowEntry.kindNamed
  generalize e.kind = kind
  revert kind
  decide

theorem actionKind_eq (e : ActionEntry) : e.kindNamed = [ActionKind.invalid, .playCue, .stopCue, .silence, .rumble,
    .rumbleCut, .flagSet, .flagClear, .flagClearRange, .post][e.kind.toNat]? := by
  unfold ActionEntry.kindNamed
  generalize e.kind = kind
  revert kind
  decide

theorem cueFormat_eq (e : CueEntry) :
    e.formatNamed = [CueFormat.tone, .pcm8, .pcm16le, .pcm16be, .adpcm4][e.format.toNat]? := by
  unfold CueEntry.formatNamed
  generalize e.format = format
  revert format
  decide

theorem stepKind_eq (e : PatternStep) : e.kindNamed = [StepKind.drive, .coast, .brake][e.kind.toNat]? := by
  unfold PatternStep.kindNamed
  generalize e.kind = kind
  revert kind
  decide

theorem entryKind_eq (e : ScheduleEntry) :
    e.kindNamed = [ScheduleKind.unused, .atTime, .onRollover, .onGameDay][e.kind.toNat]? := by
  unfold ScheduleEntry.kindNamed
  generalize e.kind = kind
  revert kind
  decide

/-- The low bits of a value, as a number. -/
theorem extractLow_toNat {w : Nat} (x : BitVec w) (n : Nat) : (x.extractLsb' 0 n).toNat = x.toNat % 2 ^ n := by
  rw [BitVec.extractLsb'_toNat, Nat.shiftRight_zero]

theorem tableOfId_eq (n : Nat) :
    tableOfId n = [TableId.windows, .actions, .cues, .patterns, .steps, .schedule][n]? := by
  match n with
  | 0 | 1 | 2 | 3 | 4 | 5 | _ + 6 => rfl

/-- The target of an ON_GAME_DAY entry, its two words put together. -/
theorem entryTarget_eq (e : ScheduleEntry) : e.target = (e.word2.extractLsb' 0 8 ++ e.word3).toNat := by
  have hhigh := (e.word2.extractLsb' 0 8).isLt
  have hlow := e.word3.isLt
  unfold ScheduleEntry.target
  rw [get_toNat, ← ofNat_twoWords, BitVec.toNat_ofNat, Nat.mod_eq_of_lt (by omega)]

/-! ## The images TABLE READ gives (R18, R187, R188) -/

theorem mark_eq (b : Bool) (bit : Nat) : Field.mark b bit = if b = true then 2 ^ bit else 0 := rfl

theorem windowImage_eq (v : WindowEntry) :
    v.image =
      [ BitVec.ofNat 16 (v.base.toNat * 256 + v.kind.toNat),
        BitVec.ofNat 16 ((if v.kindNamed = some .rom then v.bank % 256 * 256 else 0) + v.spanCode.toNat),
        BitVec.ofNat 16 v.target.toNat,
        BitVec.ofNat 16 ((if v.bankSelect = true then 32768 else 0) + v.count.toNat) ] := by
  have hrom : v.kind = 1 ↔ v.kindNamed = some .rom := by
    rw [windowKind_eq]
    generalize v.kind = kind
    revert kind
    decide
  unfold WindowEntry.image
  simp only [put_toNat, pow_zero, mul_one, hrom]
  rfl

theorem actionImage_eq (e : ActionEntry) :
    e.image = [BitVec.ofNat 16 e.kind.toNat, e.operandA, e.operandB, e.next] := rfl

/-- The high byte of a 24-bit address. -/
theorem put_highByte (x : BitVec 24) (lo : Nat) : Field.put (x.toNat / 65536) lo 8 = x.toNat / 65536 * 2 ^ lo := by
  have := x.isLt
  exact put_of_fits _ _ _ (by omega)

theorem cueImage_eq (c : CueEntry) :
    c.image =
      [ BitVec.ofNat 16 ((if c.notify = true then 2048 else 0) + c.priority.toNat * 256 + c.volume.toNat * 16 +
          c.format.toNat),
        BitVec.ofNat 16 (c.start.toNat / 65536 * 256 + c.linked.toNat),
        BitVec.ofNat 16 c.start.toNat,
        BitVec.ofNat 16 (c.length.toNat / 65536),
        BitVec.ofNat 16 c.length.toNat,
        BitVec.ofNat 16 ((if c.loopNone = true then 32768 else 0) + c.loopStart.toNat / 65536),
        BitVec.ofNat 16 c.loopStart.toNat,
        c.rate ] := by
  unfold CueEntry.image
  simp only [put_highByte, put_toNat, pow_zero, mul_one]
  rfl

theorem headerImage_eq (h : Header) :
    h.image =
      [ BitVec.ofNat 16 (h.stepCount.toNat * 512 + h.firstStep.toNat),
        BitVec.ofNat 16 ((if h.notify = true then 128 else 0) + h.priority.toNat * 16 + h.repeats.toNat) ] := by
  unfold Header.image
  simp only [put_toNat, pow_zero, mul_one]
  rfl

theorem stepImage_eq (x : PatternStep) :
    x.image = [BitVec.ofNat 16 (x.kind.toNat * 16384 + x.strength.toNat * 256 + x.duration.toNat)] := by
  unfold PatternStep.image
  simp only [put_toNat, pow_zero, mul_one]
  rfl

theorem entryImage_eq (e : ScheduleEntry) :
    e.image =
      [ BitVec.ofNat 16 ((if e.fired = true then 32768 else 0) + (if e.pending = true then 16384 else 0) +
          (if e.wake = true then 32 else 0) + (if e.enabled = true then 16 else 0) + e.kind.toNat),
        BitVec.ofNat 16 e.action.toNat,
        e.word2,
        e.word3 ] := by
  unfold ScheduleEntry.image
  simp only [put_toNat, pow_zero, mul_one]
  rfl

/-- Settles O49: the check's two ends, the swaps, the resulting tables and what offends in them, the fields of the images. -/
theorem tableCheckSwapsOrRefuses : Obligations.TableCheckSwapsOrRefuses := by
  refine ⟨?check, ?swaps, ?tables, ?offenders, ?loaded, ?windowParts, actionKind_eq, cueFormat_eq, stepKind_eq, ?entryParts,
    tableOfId_eq, rfl, rfl, ?images⟩
  case check =>
    intro s l u
    have hexec : exec .tableCheck s = s.answering (u.whileRunning Ef24.checkLoad) := exec_tableCheck s
    clear_value u
    intro hrun hload hphase
    rw [hexec, whileRunning_running _ hrun]
    exact ⟨fun n h => by rw [checkLoad_refuses hload hphase h], fun h => by rw [checkLoad_swaps hload hphase h]⟩
  case swaps =>
    intro u l
    refine ⟨fun h => ?_, fun h => ?_, fun h => ?_, fun h => ?_, fun h => ?_, fun h => ?_⟩
    all_goals rw [Ef24.swap, h]
  case tables =>
    intro u l i loaded image
    exact ⟨fun hi => loaded_get u.windows l WindowEntry.ofImage _ i hi,
      fun hi => loaded_get u.actions l ActionEntry.ofImage _ i hi,
      fun hi => loaded_get u.sound.cues l CueEntry.ofImage _ i hi,
      fun hi => loaded_get u.rumble.headers l Header.ofImage _ i hi,
      fun hi => loaded_get u.rumble.steps l PatternStep.ofImage _ i hi,
      fun hi => loaded_get u.schedule l ScheduleEntry.ofImage _ i hi⟩
  case offenders =>
    intro u l window covers windowOffends actionOffends cueOffends headerOffends stepOffends entryOffends offends
    refine offender_iff u l offends (fun h i => ?windows) (fun h i => ?actions) (fun h i => ?cues) (fun h i => ?patterns)
      (fun h i => ?steps) (fun h i => ?schedule)
    all_goals
      unfold offends
      rw [h]
      refine and_congr_right fun _ => ?_
    case windows =>
      have hoffends := (windowOffends_iff u (u.windowsAfter l) l.first i).trans
        (or_congr_left (windowFails_iff u (window i)))
      rw [hoffends]
      unfold windowOffends
      simp only [or_assoc]
      rfl
    case actions => exact (actionOffends_iff _).symm
    case cues =>
      rw [cueOffends_iff, Config.romWords, Nat.mul_comm _ 2048]
      rfl
    case patterns => exact (headerOffends_iff _).symm
    case steps => exact (stepOffends_iff _).symm
    case schedule => exact (entryOffends_iff _).symm
  case loaded =>
    exact fun ws => ⟨windowOfImage_eq ws, actionOfImage_eq ws, cueOfImage_eq ws, headerOfImage_eq ws, stepOfImage_eq ws,
      entryOfImage_eq ws⟩
  case windowParts =>
    exact fun e => ⟨windowKind_eq e, rfl, rfl, rfl, (extractLow_toNat e.target 3).symm, (extractLow_toNat e.target 6).symm,
      (extractLow_toNat e.count 7).symm⟩
  case entryParts =>
    refine fun e => ⟨entryKind_eq e, get_toNat _ _ _, get_toNat _ _ _, entryTarget_eq e, fun weekday => ?_⟩
    rw [ScheduleEntry.onWeekday, Bool.and_eq_true, decide_eq_true_iff]
  case images =>
    exact fun u i => ⟨windowImage_eq _, actionImage_eq _, cueImage_eq _, headerImage_eq _, stepImage_eq _, entryImage_eq _⟩

end Sys2Proof.Machine
end

section
/-! PROOFS. The voices (Chapter 5): an output sample, the sample that falls due, the formats and the mix (R65, R66, R72, R74,
R79, R80). -/

namespace Sys2Proof.Machine

/-! ## The mix (R80) -/

/-- The six voices' parts, in voice order. -/
theorem mixSum_eq (x : Sound) :
    x.mixSum = (x.voice 0).contribution + (x.voice 1).contribution + (x.voice 2).contribution +
      (x.voice 3).contribution + (x.voice 4).contribution + (x.voice 5).contribution := by
  simp [Sound.mixSum, voiceNumbers]

/-- An operation on all voices leaves the master volume. -/
theorem onAll_masterVolume (x : Sound) (f : Nat → Voice → Voice × List SoundEffect) :
    (x.onAll f).1.masterVolume = x.masterVolume := by
  obtain ⟨voices, hall, _⟩ := onAll_voices x f
  rw [hall]

/-- A RELEASING voice's ramp, as a difference cut at 0. -/
theorem ramp_toInt (v : Voice) : (v.ramp : Int) = max 0 (65536 - 1000 * (v.elapsed : Int)) := by
  unfold Voice.ramp
  omega

theorem contribution_releasing {v : Voice} (h : v.state = .releasing) :
    v.contribution = v.current * v.play.entry.volume.toNat * max 0 (65536 - 1000 * (v.elapsed : Int)) := by
  rw [← ramp_toInt, Voice.contribution, h]

theorem contribution_playing {v : Voice} (h : v.state = .playing) :
    v.contribution = v.current * v.play.entry.volume.toNat * 65536 := by
  rw [Voice.contribution, h]

theorem contribution_silent {v : Voice} (h : v.state = .free ∨ v.state = .priming) : v.contribution = 0 := by
  rcases h with h | h <;> rw [Voice.contribution, h]

/-! ## A voice's output sample (R66, R72) -/

section
variable {v : Voice} (i : Nat)

theorem output_waiting (h : v.state = .priming ∨ v.state = .releasing) :
    v.output i = ({ v with elapsed := v.elapsed + 1 }, []) := by
  rcases h with h | h <;> rw [Voice.output, h]

theorem output_free (h : v.state = .free) : v.output i = (v, []) := by
  rw [Voice.output, h]

theorem output_tone (h : v.state = .playing) (htone : v.play.entry.isTone = true) : v.output i = (v.soundTone, []) := by
  rw [Voice.output, h]
  exact if_pos htone

theorem output_sampled (h : v.state = .playing) (htone : v.play.entry.isTone = false) : v.output i = v.advance i := by
  rw [Voice.output, h]
  exact if_neg (by rw [htone]; exact Bool.false_ne_true)

theorem advance_between (h : v.phase + v.play.entry.rate.toNat < 32768) :
    v.advance i = ({ v with phase := v.phase + v.play.entry.rate.toNat, elapsed := v.elapsed + 1 }, []) :=
  if_neg (Nat.not_le.mpr h)

theorem advance_due (h : 32768 ≤ v.phase + v.play.entry.rate.toNat) :
    v.advance i = { v with phase := v.phase + v.play.entry.rate.toNat - 32768, elapsed := v.elapsed + 1 }.takeSample i :=
  if_pos h

/-- With no word in hand and an empty buffer a sample that falls due is an underrun. -/
theorem takeSample_empty (hbuffer : v.buffer = []) (hheld : v.held = none) : v.takeSample i = v.underrun i := by
  obtain ⟨_, _, hmissed⟩ := takeSample_spec v i
  exact hmissed (by rw [hheld]; rintro ⟨w, hw⟩; cases hw) hbuffer

/-- An underrun's voice does not depend on the phase and the count of output samples (R74). -/
theorem underrun_atPhase (phase elapsed : Nat) (hheld : v.held = none) :
    Voice.underrun i { v with phase := phase, elapsed := elapsed } =
      ({ v with phase := phase, elapsed := elapsed, current := 0
                position := v.position + 1, underruns := min 65535 (v.underruns + 1), underrunPosted := true
                fetchPoint := v.pointAfter (v.position + 1), predictor := 0, exponent := 0 },
        if v.underrunPosted = true then [] else [.post .underrun i v.play.cue]) := by
  rw [Voice.underrun, ← hheld]
  rfl

theorem takeSample_atPhase (phase elapsed : Nat) (hbuffer : v.buffer = []) (hheld : v.held = none) :
    Voice.takeSample i { v with phase := phase, elapsed := elapsed } =
      Voice.underrun i { v with phase := phase, elapsed := elapsed } :=
  takeSample_empty i hbuffer hheld

theorem advance_underrun (h : 32768 ≤ v.phase + v.play.entry.rate.toNat) (hbuffer : v.buffer = []) (hheld : v.held = none) :
    v.advance i =
      ({ v with phase := v.phase + v.play.entry.rate.toNat - 32768, elapsed := v.elapsed + 1, current := 0
                position := v.position + 1, underruns := min 65535 (v.underruns + 1), underrunPosted := true
                fetchPoint := v.pointAfter (v.position + 1), predictor := 0, exponent := 0 },
        if v.underrunPosted = true then [] else [.post .underrun i v.play.cue]) := by
  rw [advance_due i h, takeSample_atPhase i _ _ hbuffer hheld, underrun_atPhase i _ _ hheld]

end

/-- The fetch point after an underrun: the word that holds the next sample due (R74; log 19). -/
theorem pointAfter_eq (v : Voice) (position : Nat) :
    let e := v.play.entry
    v.pointAfter position =
      if position < e.length.toNat then e.start.toNat + position / e.perWord
      else if e.loopNone = false then e.start.toNat + e.loopStart.toNat / e.perWord
      else e.start.toNat + (e.length.toNat + e.perWord - 1) / e.perWord := by
  intro e
  unfold Voice.pointAfter Voice.loops
  simp only [Bool.not_eq_true']
  rfl

/-! ## The formats (R65) -/

section
variable {e : CueEntry}

theorem isTone_iff (e : CueEntry) : e.isTone = true ↔ e.formatNamed = some .tone ∨ e.formatNamed = none := by
  unfold CueEntry.isTone CueEntry.formatOf
  cases e.formatNamed <;> simp

theorem perWord_named {f : CueFormat} (h : e.formatNamed = some f) : e.perWord = f.samplesPerWord := by
  rw [CueEntry.perWord, formatOf_named e f h]

variable (w : Word) (place : Nat) (predictor : Int) (exponent : Nat)

theorem decodeSample_pcm16le (h : e.formatNamed = some .pcm16le) :
    decodeSample e w place predictor exponent = (w.toInt, predictor, exponent) := by
  rw [decodeSample, formatOf_named e _ h]

theorem decodeSample_pcm16be (h : e.formatNamed = some .pcm16be) :
    decodeSample e w place predictor exponent = ((w.rotateLeft 8).toInt, predictor, exponent) := by
  rw [decodeSample, formatOf_named e _ h, ← swapBytes_rotate]

theorem decodeSample_pcm8 (h : e.formatNamed = some .pcm8) :
    decodeSample e w place predictor exponent = ((w.extractLsb' (8 * place) 8).toInt * 256, predictor, exponent) := by
  rw [decodeSample, formatOf_named e _ h]
  dsimp only
  rw [ofNat_get]

theorem decodeSample_adpcm4 (h : e.formatNamed = some .adpcm4) :
    let code := (w.extractLsb' (4 * place) 4).toNat
    decodeSample e w place predictor exponent =
      (adpcmPredictor code predictor exponent, adpcmPredictor code predictor exponent, adpcmExponent code exponent) := by
  intro code
  rw [decodeSample, formatOf_named e _ h]
  dsimp only
  rw [get_toNat]

/-- A four-bit code's high bit is its sign. -/
theorem adpcmPredictor_eq {code : Nat} (hcode : code < 16) :
    adpcmPredictor code predictor exponent =
      if 8 ≤ code then clampSample (predictor - adpcmDifference code exponent)
      else clampSample (predictor + adpcmDifference code exponent) := by
  have hsign : code / 8 % 2 = 1 ↔ 8 ≤ code := by omega
  unfold adpcmPredictor
  simp only [hsign]

end

/-- Settles O50: the mix, then a voice's output sample by its state, the sample that falls due, and the formats. -/
theorem outputSampleAdvancesAndMixes : Obligations.OutputSampleAdvancesAndMixes := by
  refine ⟨?mix, fun v i hstate htone => ?sampled, fun v i => ?due, fun e w place predictor exponent => ?decoded,
    fun e => ?formats, fun v i => ?others⟩
  case mix =>
    intro s u x sum mixed hr
    have hexec : exec .outputSample s = s.answering u.outputSample :=
      (exec_outputSample s).trans (congrArg s.answering (whileRunning_running _ hr))
    rw [hexec]
    clear_value u
    have hmix : x.1.mix = max (-32768) (min 32767 mixed) := by
      rw [Sound.mix, mixSum_eq, onAll_masterVolume]
      rfl
    rw [Ef24.outputSample, ← hmix]
    rfl
  case sampled =>
    rw [output_sampled i hstate htone]
    exact ⟨advance_between i, advance_due i, advance_underrun i⟩
  case due =>
    obtain ⟨hheld, hbuffer, hmissed⟩ := takeSample_spec v i
    refine ⟨hheld, hbuffer, fun hnot hempty => ?_⟩
    rw [hmissed hnot hempty, Voice.underrun, pointAfter_eq]
  case decoded =>
    intro code magnitude difference moved
    have hmoved : adpcmPredictor code predictor exponent = moved := by
      rw [adpcmPredictor_eq _ _ (BitVec.isLt _)]
      exact (apply_ite clampSample _ _ _).symm
    refine ⟨decodeSample_pcm16le w place predictor exponent, decodeSample_pcm16be w place predictor exponent,
      decodeSample_pcm8 w place predictor exponent, fun h => ?_⟩
    rw [decodeSample_adpcm4 w place predictor exponent h, hmoved]
    rfl
  case formats => exact ⟨isTone_iff e, perWord_named, perWord_named, perWord_named, perWord_named⟩
  case others =>
    exact ⟨output_tone i, output_waiting i, output_free i, contribution_playing, contribution_releasing,
      contribution_silent⟩

end Sys2Proof.Machine
end

section
/-! PROOFS. The voices (Chapter 5): the prime limit, the loop return, the natural end and the end of a ramp (R70, R71, R74 to
R76, R79). -/

namespace Sys2Proof.Machine

/-! ## An event's row -/

/-- The row of an event that is due while the core runs. -/
theorem becoming_event {s : State} {due : Bool} (f : Ef24 → Ef24) (hr : s.coreRunning = true) (hd : due = true) :
    s.becoming (s.toEf24.event due f) = s.answering (f s.toEf24) :=
  congrArg s.becoming (event_due f hr hd)

section
variable {s : State} {i : Nat} (hr : s.coreRunning = true)
include hr

theorem exec_loopReturn_due (h : (s.sound.voice i).loopDue = true) :
    exec (.loopReturn i) s =
      s.answering { s.toEf24 with sound := s.sound.withVoice i (s.sound.voice i).loopReturn } :=
  (exec_loopReturn i s).trans (becoming_event _ hr h)

theorem exec_cueNaturalEnd_due (h : (s.sound.voice i).endDue = true) :
    exec (.cueNaturalEnd i) s = s.answering (s.toEf24.withSound
      (s.sound.withVoice i ((s.sound.voice i).naturalEnd i).1, ((s.sound.voice i).naturalEnd i).2)) :=
  (exec_cueNaturalEnd i s).trans (becoming_event _ hr h)

theorem exec_rampEnd_due (h : (s.sound.voice i).state = .releasing ∧ 66 ≤ (s.sound.voice i).elapsed) :
    exec (.rampEnd i) s = s.answering (s.toEf24.withSound
      (s.sound.withVoice i ((s.sound.voice i).rampEnd i).1, ((s.sound.voice i).rampEnd i).2)) :=
  (exec_rampEnd i s).trans (becoming_event _ hr ((rampDue_iff _).mpr h))

end

/-! ## What becomes of the voice -/

/-- CUE_END for a cue that ended by itself. -/
theorem endPost_finished (p : Play) (underruns : Nat) :
    p.endPost .finished underruns = if p.entry.notify = true then [.post .cueEnd p.cue (min underruns 16383)] else [] := by
  have hcode : CueCause.finished.code * 16384 + min underruns 16383 = min underruns 16383 := Nat.zero_add _
  rw [endPost_eq, hcode]

theorem naturalEnd_eq (v : Voice) (i : Nat) :
    v.naturalEnd i = (v.becomeFree,
      (if v.play.entry.notify = true then [.post .cueEnd v.play.cue (min v.underruns 16383)] else []) ++
        if v.linked = true then [.stopped i] else []) := by
  rw [Voice.naturalEnd, endPost_finished, Voice.stopReport]

section
variable {v : Voice} {p : Play} (i : Nat)

theorem rampEnd_none (h : v.next = none) : v.rampEnd i = (v.becomeFree, []) := by
  rw [Voice.rampEnd, h]

theorem rampEnd_sampled (h : v.next = some p) (htone : p.entry.isTone = false) : v.rampEnd i = (v.prime p, []) := by
  rw [Voice.rampEnd, h]
  exact if_neg (by rw [htone]; exact Bool.false_ne_true)

theorem rampEnd_tone (h : v.next = some p) (htone : p.entry.isTone = true) :
    v.rampEnd i = (v.prime p).enterPlaying i := by
  rw [Voice.rampEnd, h]
  exact if_pos htone

end

theorem loopDue_iff (v : Voice) : v.loopDue = true ↔
    v.state = .playing ∧ v.play.entry.isTone = false ∧ v.play.entry.loopNone = false ∧
      v.play.entry.length.toNat ≤ v.position := by
  simp only [Voice.loopDue, Voice.loops, Bool.and_eq_true, beq_iff_eq, Bool.not_eq_true', decide_eq_true_iff, and_assoc]

theorem endDue_iff (v : Voice) : v.endDue = true ↔ v.state = .playing ∧
    ((v.play.entry.isTone = true ∧ v.play.entry.length.toNat * 32768 ≤ v.elapsed * 1000) ∨
      (v.play.entry.isTone = false ∧ v.play.entry.loopNone = true ∧ v.play.entry.length.toNat ≤ v.position)) := by
  rw [Voice.endDue, Bool.and_eq_true, beq_iff_eq]
  refine and_congr_right fun _ => ?_
  cases v.play.entry.isTone <;> simp [Voice.loops]

theorem primeReached_iff (v : Voice) : v.primeReached = true ↔ v.state = .priming ∧ 655 ≤ v.elapsed := by
  simp only [Voice.primeReached, Bool.and_eq_true, beq_iff_eq, decide_eq_true_iff]
  rfl

/-- A voice that enters PLAYING submits its linked pattern, if its cue names one (R71). -/
theorem enterPlaying_eq (v : Voice) (i : Nat) :
    v.enterPlaying i =
      ({ v with state := .playing, elapsed := 0, phase := 0
                linked := if v.play.entry.linked = 255 then v.linked else true },
        if v.play.entry.linked = 255 then [] else [.link i v.play.entry.linked.toNat v.play.priority]) := by
  by_cases h : v.play.entry.linked = 255
  · rw [enterPlaying_unlinked i h, if_pos h, if_pos h]
  · rw [enterPlaying_linked i h, if_neg h, if_neg h]

/-- The prime limit: the voice enters PLAYING, and its first sample falls due (R70). -/
theorem primeLimit_of {v playing w : Voice} {i : Nat} {links asks : List SoundEffect}
    (hplays : v.enterPlaying i = (playing, links)) (htakes : playing.takeSample i = (w, asks)) :
    v.primeLimit i = (w, links ++ asks) := by
  unfold Voice.primeLimit
  rw [hplays]
  dsimp only
  rw [htakes]

/-- Settles O51: the rows, their occasions, and a voice at its prime limit by the word its first sample comes from. -/
theorem voiceEventsHappenWhenDue : Obligations.VoiceEventsHappenWhenDue := by
  refine ⟨?rows, fun v => ⟨loopDue_iff v, endDue_iff v⟩, ?row, ?limit, pointAfter_eq⟩
  case rows =>
    intro s i v loopWord freed returned finished
    refine ⟨exec_loopReturn_due, fun hr hdue => ?naturalEnd, fun hr hstate helapsed =>
      ⟨fun h => ?free, fun p h htone => ?sampled, fun p h htone => ?tone⟩⟩
    case naturalEnd =>
      rw [exec_cueNaturalEnd_due hr hdue, naturalEnd_eq]
      rfl
    case free =>
      rw [exec_rampEnd_due hr ⟨hstate, helapsed⟩, rampEnd_none i h]
      rfl
    case sampled =>
      rw [exec_rampEnd_due hr ⟨hstate, helapsed⟩, rampEnd_sampled i h htone]
      rfl
    case tone => rw [exec_rampEnd_due hr ⟨hstate, helapsed⟩, rampEnd_tone i h htone]
  case row =>
    intro s i u v hr hstate helapsed
    have hexec : exec (.primeLimit i) s = s.answering (u.reachPrimeLimit i) :=
      (exec_primeLimit i s).trans (congrArg s.answering (whileRunning_running _ hr))
    rw [hexec]
    exact congrArg s.answering (if_pos ((primeReached_iff _).mpr ⟨hstate, helapsed⟩))
  case limit =>
    intro u i v e address links playing sample taken missed inHand becomes _
    have hplaying : v.enterPlaying i = (playing, links) := enterPlaying_eq v i
    obtain ⟨hheld, hbuffer, hmissed⟩ := takeSample_spec playing i
    have hbecomes {x : Voice} {asks : List SoundEffect} (h : playing.takeSample i = (x, asks)) :
        u.onVoice Voice.primeLimit i = becomes x asks := by
      have hlimit : v.primeLimit i = (x, links ++ asks) := primeLimit_of hplaying h
      rw [onVoice_withSound, hlimit]
    exact ⟨fun w hw => hbecomes (hheld w hw), fun w rest hnot hw => hbecomes (hbuffer w rest hnot hw),
      fun hnot hempty => hbecomes (hmissed hnot hempty)⟩

end Sys2Proof.Machine
end

section
/-! PROOFS. The Rumble Drive (Chapter 6): ticks, the ends of steps and of requests, the motor and what it drives (R89, R92, R94
to R98). -/

namespace Sys2Proof.Machine

/-! ## The motor's own ends (R92, R94, R95) -/

section
variable {u : Ef24}

theorem motorEnds_held (hr : u.coreRunning = false) : u.motorEnds = u := by
  have hkick : u.kickEnd = u := event_held _ _ hr
  have hcoast : u.coastStop = u := event_held _ _ hr
  have hbrake : u.endBrakeDone = u := event_held _ _ hr
  rw [Ef24.motorEnds, hkick, hcoast, hbrake]

/-- A kick that ends leaves the motor driving, and no other end is due. -/
theorem motorEnds_kick (hr : u.coreRunning = true) (hdue : u.rumble.kickEndDue = true) :
    u.motorEnds = ({ u with rumble := u.rumble.endKick } : Ef24).conclude := by
  obtain ⟨_, hcoast, hbrake⟩ : u.kickEnd.rumble.noMotorEnd := event_noMotorEnd hr hdue (.inr rfl)
  have hcoast : u.kickEnd.coastStop = u.kickEnd := event_not_due _ hcoast
  have hbrake : u.kickEnd.endBrakeDone = u.kickEnd := event_not_due _ hbrake
  rw [Ef24.motorEnds, hcoast, hbrake]
  exact event_due _ hr hdue

theorem kickEnd_stays (hstate : u.rumble.motor.state ≠ .kick) : u.kickEnd = u :=
  event_stays _ fun h => hstate ((kickEndDue_iff _).mp h.2).1

/-- A coast that ends stops the motor, and no other end is due. -/
theorem motorEnds_coast (hr : u.coreRunning = true) (hdue : u.rumble.coastStopDue = true) :
    u.motorEnds = ({ u with rumble := u.rumble.stopMotor } : Ef24).conclude := by
  obtain ⟨hstate, _⟩ := (coastStopDue_iff _).mp hdue
  obtain ⟨_, _, hbrake⟩ : u.coastStop.rumble.noMotorEnd := event_noMotorEnd hr hdue (.inl rfl)
  have hbrake : u.coastStop.endBrakeDone = u.coastStop := event_not_due _ hbrake
  rw [Ef24.motorEnds, kickEnd_stays (by rw [hstate]; decide), hbrake]
  exact event_due _ hr hdue

/-- An end brake that is done stops the motor. -/
theorem motorEnds_brake (hr : u.coreRunning = true) (hdue : u.rumble.endBrakeDue = true) :
    u.motorEnds = ({ u with rumble := u.rumble.stopMotor } : Ef24).conclude := by
  obtain ⟨hstate, _⟩ := (endBrakeDue_iff _).mp hdue
  have hcoast : u.coastStop = u := event_stays _ fun h => by
    obtain ⟨hcoasting, _⟩ := (coastStopDue_iff _).mp h.2
    rw [hstate] at hcoasting
    cases hcoasting
  rw [Ef24.motorEnds, kickEnd_stays (by rw [hstate]; decide), hcoast]
  exact event_due _ hr hdue

end

/-! ## The step in hand and its end (R92) -/

section
variable {r : Rumble} {p : Playing} (ceiling : Nat) (hplaying : r.playing = some p)
include hplaying

theorem nextStep_goesOn (h : ¬ (r.header p.request.pattern).stepCount.toNat ≤ p.step + 1) :
    r.nextStep ceiling = r.goTo p (p.step + 1) p.playsLeft ceiling := by
  rw [Rumble.nextStep, hplaying]
  exact if_pos (Nat.lt_of_not_le h)

theorem nextStep_again (h : (r.header p.request.pattern).stepCount.toNat ≤ p.step + 1) :
    r.nextStep ceiling = r.goTo p 0 (p.playsLeft.map (· - 1)) ceiling := by
  rw [Rumble.nextStep, hplaying]
  exact if_neg (Nat.not_lt.mpr h)

theorem finish_empty (h : r.queue = []) :
    r.finish ceiling =
      ({ r with playing := none, motor := r.motor.leaveBrakeStep.endBrake }, p.request.endPost) := by
  rw [Rumble.finish, hplaying]
  dsimp only
  rw [Rumble.advanceQueue]
  dsimp only
  rw [h]

theorem finish_queued {q : Request} {rest : List Request} (h : r.queue = q :: rest) :
    r.finish ceiling =
      ({ r with playing := none, queue := rest, motor := r.motor.leaveBrakeStep }.start q ceiling, p.request.endPost) := by
  rw [Rumble.finish, hplaying]
  dsimp only
  rw [Rumble.advanceQueue]
  dsimp only
  rw [h]

end

section
variable {s : State} {p : Playing}

/-- STEP_END and PATTERN_FINISHED follow the motor's own ends. -/
theorem exec_stepEnd_due (hr : s.toEf24.motorEnds.coreRunning = true) (hplaying : s.toEf24.motorEnds.rumble.playing = some p)
    (hticks : p.ticksLeft = 0) (h : ¬ s.toEf24.motorEnds.rumble.atLastStep p = true) :
    exec .stepEnd s = s.answering { s.toEf24.motorEnds with
      rumble := s.toEf24.motorEnds.rumble.nextStep s.toEf24.motorEnds.ceiling } :=
  (exec_stepEnd s).trans
    (congrArg s.becoming (event_due _ hr ((stepEndDue_iff _).mpr ⟨p, hplaying, hticks, h⟩)))

theorem exec_patternFinished_due (hr : s.toEf24.motorEnds.coreRunning = true)
    (hplaying : s.toEf24.motorEnds.rumble.playing = some p) (hticks : p.ticksLeft = 0)
    (h : s.toEf24.motorEnds.rumble.atLastStep p = true) :
    exec .patternFinished s = s.answering
      (s.toEf24.motorEnds.withRumble (s.toEf24.motorEnds.rumble.finish s.toEf24.motorEnds.ceiling)) :=
  (exec_patternFinished s).trans
    (congrArg s.becoming (event_due _ hr ((finishDue_iff _).mpr ⟨p, hplaying, hticks, h⟩)))

end

/-- RUMBLE_END's detail: the source above the effective priority. -/
theorem rumbleEndPost_eq (q : Request) :
    q.endPost =
      if q.notify = true then [(.rumbleEnd, q.pattern, q.source.code * 256 + q.priority % 8)] else [] := by
  have hcode : q.source.code < 2 ^ 2 := by cases q.source <;> decide
  rw [Request.endPost, put_of_fits _ 8 2 hcode, put_bottom]
  rfl

/-- Settles O52: the tick, the two rows by the step and the plays left, the motor's own ends, and RUMBLE_END. -/
theorem ticksMoveThePattern : Obligations.TicksMoveThePattern := by
  refine ⟨?tick, ?rows, ?ends, rumbleEndPost_eq⟩
  case tick =>
    intro s u m hr
    have hexec : exec .tick s = s.answering u.tick :=
      (exec_tick s).trans (congrArg s.answering (whileRunning_running _ hr))
    rw [hexec]
    clear_value u
    rfl
  case rows =>
    intro s p u r h last goes hr hplaying hticks
    refine ⟨fun hlast => ?next, fun hlast hplays => ?again, fun hlast hplays => ?finished⟩
    case next =>
      rw [exec_stepEnd_due hr hplaying hticks fun hat => hlast ((atLastStep_iff _ _).mp hat).1,
        nextStep_goesOn _ hplaying hlast]
      rfl
    case again =>
      rw [exec_stepEnd_due hr hplaying hticks fun hat => hplays ((atLastStep_iff _ _).mp hat).2,
        nextStep_again _ hplaying hlast]
      rfl
    case finished =>
      intro motor
      rw [exec_patternFinished_due hr hplaying hticks ((atLastStep_iff _ _).mpr ⟨hlast, hplays⟩)]
      refine ⟨fun hqueue => ?_, fun q rest hqueue => ?_⟩
      · rw [finish_empty _ hplaying hqueue]
        rfl
      · rw [finish_queued _ hplaying hqueue]
        rfl
  case ends =>
    intro u m moved kicked stopped
    refine ⟨fun h => ?none, fun hr hkick => ?kick, fun hr hstopped => ?stop⟩
    case none =>
      rcases h with hr | ⟨hkick, hstopped⟩
      · exact motorEnds_held hr
      · refine motorEnds_of_noMotorEnd ⟨?_, ?_, ?_⟩
        · exact (eq_false_of_iff (kickEndDue_iff _)).mpr hkick
        · exact (eq_false_of_iff (coastStopDue_iff _)).mpr fun h => hstopped (.inl h)
        · exact (eq_false_of_iff (endBrakeDue_iff _)).mpr fun h => hstopped (.inr h)
    case kick => exact motorEnds_kick hr ((kickEndDue_iff _).mpr hkick)
    case stop =>
      rcases hstopped with h | h
      · exact motorEnds_coast hr ((coastStopDue_iff _).mpr h)
      · exact motorEnds_brake hr ((endBrakeDue_iff _).mpr h)

/-! ## The motor's table and its drive (R94 to R98) -/

/-- The strength a step asks: a DRIVE's, held under the ceiling. -/
theorem effective_eq (x : PatternStep) (ceiling : Nat) :
    x.effective ceiling = if x.kindNamed = some .drive then min x.strength.toNat ceiling else 0 := by
  unfold PatternStep.effective
  cases x.kindNamed with
  | none => rfl
  | some kind => cases kind <;> rfl

theorem effective_pos_iff (x : PatternStep) (ceiling : Nat) :
    0 < x.effective ceiling ↔ x.kindNamed = some .drive ∧ 0 < min x.strength.toNat ceiling := by
  rw [effective_eq]
  by_cases h : x.kindNamed = some .drive <;> simp [h]

section
variable (m : Motor) {x : PatternStep} {ceiling : Nat}

theorem begin_brake (h : x.kindNamed = some .brake) : m.begin x ceiling = m.brake := if_pos h

theorem begin_driven (h : 0 < x.effective ceiling) :
    m.begin x ceiling = match m.state with
      | .stopped => m.startKick
      | .kick => m.drive
      | .driving => m.drive
      | .coasting => m.drive
      | .braking => m.startKick := by
  have hdrive := ((effective_pos_iff x ceiling).mp h).1
  exact (if_neg (by rw [hdrive]; decide)).trans (if_pos h)

theorem begin_undriven (hbrake : x.kindNamed ≠ some .brake) (h : ¬ 0 < x.effective ceiling) :
    m.begin x ceiling = match m.state with
      | .stopped => m
      | .kick => m.coast
      | .driving => m.coast
      | .coasting => m
      | .braking => m.stop :=
  (if_neg hbrake).trans (if_neg h)

theorem limit_driven (hdrive : x.kindNamed = some .drive) (h : 0 < x.effective ceiling) :
    m.limit x ceiling = match m.state with
      | .stopped => m.startKick
      | .kick => m
      | .driving => m
      | .coasting => m.drive
      | .braking => m :=
  (if_pos hdrive).trans (if_pos h)

theorem limit_undriven (hdrive : x.kindNamed = some .drive) (h : ¬ 0 < x.effective ceiling) :
    m.limit x ceiling = match m.state with
      | .stopped => m
      | .kick => m.coast
      | .driving => m.coast
      | .coasting => m
      | .braking => m :=
  (if_pos hdrive).trans (if_neg h)

theorem limit_other (hdrive : x.kindNamed ≠ some .drive) : m.limit x ceiling = m := if_neg hdrive

end

/-- The strength of a driving motor: the step's in hand, or 0 without one. -/
theorem driving_strength (inHand : Option PatternStep) (ceiling : Nat) :
    MotorState.strength .driving inHand ceiling = match inHand with
      | some step => if step.kindNamed = some .drive then min step.strength.toNat ceiling else 0
      | none => 0 := by
  cases inHand with
  | none => rfl
  | some step => exact effective_eq step ceiling

/-- Settles O53: the three rows, the motor's table by the step, its strength, its two duties, and the Drive Ceiling. -/
theorem motorEndsWhenCountsRunOut : Obligations.MotorEndsWhenCountsRunOut := by
  refine ⟨?rows, ?table, ?follow, ?duties, ?ceiling, fun r => decide_eq_true_iff⟩
  case rows =>
    intro s r stopped hr
    exact ⟨fun hstate hleft => (exec_kickEnd s).trans (becoming_event _ hr ((kickEndDue_iff _).mpr ⟨hstate, hleft⟩)),
      fun hstate hcount => (exec_coastStop s).trans (becoming_event _ hr ((coastStopDue_iff _).mpr ⟨hstate, hcount⟩)),
      fun hstate hleft hplaying =>
        (exec_endBrakeDone s).trans (becoming_event _ hr ((endBrakeDue_iff _).mpr ⟨hstate, hleft, hplaying⟩))⟩
  case table =>
    intro m x ceiling at_ driven
    have hdriven : 0 < x.effective ceiling ↔ driven := effective_pos_iff x ceiling
    refine ⟨begin_brake m, fun h => begin_driven m (hdriven.mpr h),
      fun hbrake h => begin_undriven m hbrake fun he => h (hdriven.mp he),
      fun hdrive h => limit_driven m hdrive (hdriven.mpr h),
      fun hdrive h => limit_undriven m hdrive fun he => h (hdriven.mp he), limit_other m, rfl, rfl⟩
  case follow =>
    intro r ceiling x m
    have hstrength : m.state.strength x ceiling = match m.state with
        | .stopped => 0
        | .kick => min 15 ceiling
        | .driving => (match x with
          | some step => if step.kindNamed = some .drive then min step.strength.toNat ceiling else 0
          | none => 0)
        | .coasting => 0
        | .braking => ceiling := by
      cases m.state with
      | driving => exact driving_strength x ceiling
      | stopped | kick | coasting | braking => rfl
    exact congrArg (fun strength => ({ r with motor := { m with strength := strength } } : Rumble)) hstrength
  case duties =>
    intro u m
    refine ⟨fun h => ?idle, fun h => ?driven, fun h => ?braked, ?never⟩
    case idle => rcases h with h | h <;> simp only [Ef24.dutyMA, Ef24.dutyMB, m, h, and_self] at h ⊢
    case driven => rcases h with h | h <;> simp only [Ef24.dutyMA, Ef24.dutyMB, m, h, and_self] at h ⊢
    case braked => simp only [Ef24.dutyMA, Ef24.dutyMB, m, h, and_self] at h ⊢
    case never =>
      unfold Ef24.dutyMA Ef24.dutyMB
      cases u.rumble.motor.state <;> simp
  case ceiling =>
    intro u supply
    have hsupply : u.power.supply.ceiling = supply := by
      unfold supply
      cases u.power.supply <;> rfl
    refine ⟨fun h => ?_, fun h hguard => ?_, fun h hguard => ?_⟩ <;> simp [Ef24.ceiling, *]

end Sys2Proof.Machine
end

section
/-! PROOFS. The machine: a step, the reset, and a post (R2, R32, R42, R49, R64, R67, R85, R109, R130, R140, R158, R168, R172,
R178, R184). -/

namespace Sys2Proof.Machine

/-- Settles O1: by the queue. -/
theorem stepRunsFrontCommand : Obligations.StepRunsFrontCommand := by
  refine ⟨fun c s => rfl, fun s hempty => ?_⟩
  rw [step, hempty]

/-! ## A post (R167, R168) -/

theorem post_joins {u : Ef24} (kind : EventKind) (index detail : Nat) (h : u.events.queue.length < 16) :
    u.post kind index detail = { u with events := { u.events with
      queue := u.events.queue ++
        [{ kind := kind, index := BitVec.ofNat 8 index, detail := word detail, stamp := u.calendar.stamp }] } } :=
  congrArg (fun events => ({ u with events := events } : Ef24)) (if_pos h)

theorem post_overflows {u : Ef24} (kind : EventKind) (index detail : Nat) (h : 16 ≤ u.events.queue.length) :
    u.post kind index detail = { u with events := { u.events with overflow := true } } :=
  congrArg (fun events => ({ u with events := events } : Ef24)) (if_neg (Nat.not_lt.mpr h))

/-- CMD_DONE's detail: the status above the item. -/
theorem doneDetail_eq (status : Status) (item : Nat) : doneDetail status item = status.code * 1024 + item % 1024 := by
  have hcode : status.code < 2 ^ 6 := Status.code_lt status
  exact congrArg₂ (· + ·) (put_of_fits _ 10 6 hcode) (put_bottom item 10)

/-- Settles O4: by the queue's length; the posts of a list; the codes. -/
theorem postJoinsOrOverflows : Obligations.PostJoinsOrOverflows := by
  refine ⟨fun u kind index detail => ⟨post_joins kind index detail, post_overflows kind index detail⟩, fun u => rfl,
    fun u p ps => rfl, fun u c status item => ?done, by decide, by decide, by decide, by decide⟩
  case done => rw [Ef24.postDone, doneDetail_eq]

/-! ## The reset -/

theorem reset_window {i : Nat} (hlt : i < 15) (hne : i ≠ 0) : State.reset.window i = WindowEntry.unused := by
  have hall : ∀ j, j < 15 → j ≠ 0 → State.reset.window j = WindowEntry.unused := by decide
  exact hall i hlt hne

theorem reset_action {n : Nat} (h : n < 64) : State.reset.action n = ActionEntry.invalid :=
  table_get_replicate _ _ h

theorem reset_cue {n : Nat} (h : n < 128) : State.reset.sound.cue n = CueEntry.empty :=
  table_get_replicate _ _ h

theorem reset_voice {i : Nat} (h : i < 6) : State.reset.sound.voice i = Voice.reset :=
  table_get_replicate _ _ h

theorem reset_header {p : Nat} (h : p < 32) : State.reset.rumble.header p = Header.empty :=
  table_get_replicate _ _ h

theorem reset_step {n : Nat} (h : n < 512) : State.reset.rumble.steps[n]? = some PatternStep.empty := by
  have hsteps : State.reset.rumble.steps = Vector.replicate 512 PatternStep.empty := rfl
  rw [hsteps, Vector.getElem?_replicate, if_pos h]

theorem reset_slot {k : Nat} (h : k < 8) : State.reset.save.slot k = Slot.reset :=
  table_get_replicate _ _ h

theorem reset_entry {i : Nat} (h : i < 16) : State.reset.entry i = ScheduleEntry.unused :=
  table_get_replicate _ _ h

/-- The core of the reset, as a core reset holds it. -/
def heldReset : Ef24 := { State.reset.coreResetValues with chip := none }

/-- No schedule entry is Pending and no rollover is unreported at the reset: its core reset ends without a post. -/
theorem heldReset_startupPosts : heldReset.startupPosts = [] := by decide

theorem heldReset_clearPending : heldReset.clearPending.schedule = State.reset.schedule := by decide

/-- The reset is what the end of a core reset makes of the core reset values, with the SRAM port granted. -/
theorem reset_of_endReset : State.reset.toEf24 = { heldReset.endReset with
    save := { heldReset.endReset.save with port := some .sequencer }, free := State.reset.free } := by
  rw [endReset_eq, heldReset_startupPosts, heldReset_clearPending]
  rfl

/-- Settles O2: the values block by block; the tables by their entry. -/
theorem resetLeavesStatedValues : Obligations.ResetLeavesStatedValues := by
  unfold Obligations.ResetLeavesStatedValues
  intro r
  refine ⟨rfl, rfl, rfl, rfl, rfl, rfl, fun i hlt hne => ?unused, rfl, rfl, rfl, by decide, rfl, rfl, rfl, rfl,
    fun n hn => ?action, fun n hn => ?cue, fun i hi => ?voice, rfl, rfl, rfl, fun p hp => reset_header hp,
    fun n hn => ⟨_, reset_step hn, rfl, rfl, rfl⟩, rfl, rfl, rfl, rfl, rfl, rfl, rfl, rfl, rfl, rfl, rfl,
    fun k hk => ?slot, rfl, rfl, rfl, rfl, rfl, rfl, rfl, rfl, rfl, rfl, rfl, fun i hi => ?entry, rfl, rfl, rfl, rfl, rfl,
    rfl, rfl, rfl, rfl, reset_of_endReset⟩
  case unused => rw [reset_window hlt hne]; rfl
  case action => rw [reset_action hn]; rfl
  case cue => rw [reset_cue hn]; exact ⟨rfl, rfl, rfl⟩
  case voice => rw [reset_voice hi]; exact ⟨rfl, rfl, rfl, rfl, rfl, rfl⟩
  case slot => rw [reset_slot hk]; exact ⟨rfl, rfl, rfl⟩
  case entry => rw [reset_entry hi]; exact ⟨rfl, rfl⟩

/-- Settles O10: the reset's own values. -/
theorem resetHasWhatStepsKeep : Obligations.ResetHasWhatStepsKeep := by
  refine ⟨?sram, ?queues, ?drive, ?chip, ?calendar⟩
  case sram => unfold Ef24.sramCanonical; decide
  case queues => unfold Ef24.queuesFit; decide
  case drive => unfold Ef24.driveLimited; decide
  case chip => unfold Ef24.chipFollowsSupply; decide
  case calendar => unfold Calendar.consistent; decide

end Sys2Proof.Machine
end

section
/-! PROOFS. The SRAM port and the sequencer (Chapter 7): an access that completes (R110, R111, R113, R115, R117, R118, R121). -/

namespace Sys2Proof.Machine

/-! ## The access in progress -/

theorem exec_postedWriteDrain_port {s : State} (h : s.settled.save.port = some .drain) :
    exec .postedWriteDrain s = s.answering s.settled.drainOne :=
  (exec_postedWriteDrain s).trans (congrArg s.answering (if_pos (by rw [h]; rfl)))

theorem exec_sequencerAccess_port {s : State} (h : s.settled.save.port = some .sequencer) :
    exec .sequencerAccess s = s.answering s.settled.sequencerAccess :=
  (exec_sequencerAccess s).trans (congrArg s.answering (if_pos (by rw [h]; rfl)))

/-- A sequencer that has an access to make makes it, and leaves the port. -/
theorem sequencerAccess_wants {u : Ef24} (h : u.save.wants = true) : u.sequencerAccess = u.sequencerStep.takeSramPort :=
  congrArg Ef24.takeSramPort (if_pos h)

theorem drainOne_cons {u : Ef24} {p : Posted} {rest : List Posted} (h : u.save.buffer = p :: rest) :
    u.drainOne =
      { u with sram := u.sram.write p.address p.data, save := { u.save with buffer := rest, port := none } } := by
  rw [Ef24.drainOne, h]

/-! ## The sequencer's next word, step by step -/

/-- The chip after an access that moves the sequencer. -/
def Ef24.movedTo (u : Ef24) (q : Sequencer) : Ef24 := { u with save := { u.save with sequencer := q, port := none } }

/-- The chip after an access that writes a word and moves the sequencer. -/
def Ef24.wroteTo (u : Ef24) (a : Nat) (w : Word) (q : Sequencer) : Ef24 :=
  ({ u with sram := u.sram.write a w } : Ef24).movedTo q

section
variable {u : Ef24} {k index length : Nat} {crc w : Word} {a : Nat} {rest : List (Nat × Word)} {commit : Bool}
  {r : SlotRecord} {sizes : List Nat}

theorem sequencerAccess_formatting (h : u.save.sequencer = .formatting sizes ((a, w) :: rest)) :
    u.sequencerAccess = u.wroteTo a w (.formatting sizes rest) := by
  have hwants : u.save.wants = true := by rw [Save.wants, h]; rfl
  rw [sequencerAccess_wants hwants, Ef24.sequencerStep, h]
  rfl

theorem sequencerAccess_intent (h : u.save.sequencer = .intent commit k r ((a, w) :: rest)) :
    u.sequencerAccess = u.wroteTo a w (.intent commit k r rest) := by
  have hwants : u.save.wants = true := by rw [Save.wants, h]; rfl
  rw [sequencerAccess_wants hwants, Ef24.sequencerStep, h]
  rfl

theorem sequencerAccess_switching (h : u.save.sequencer = .switching commit k r ((a, w) :: rest)) :
    u.sequencerAccess = u.wroteTo a w (.switching commit k r rest) := by
  have hwants : u.save.wants = true := by rw [Save.wants, h]; rfl
  rw [sequencerAccess_wants hwants, Ef24.sequencerStep, h]
  rfl

theorem sequencerAccess_closing (h : u.save.sequencer = .closing commit k ((a, w) :: rest)) :
    u.sequencerAccess = u.wroteTo a w (.closing commit k rest) := by
  have hwants : u.save.wants = true := by rw [Save.wants, h]; rfl
  rw [sequencerAccess_wants hwants, Ef24.sequencerStep, h]
  rfl

theorem sequencerAccess_scanning (h : u.save.sequencer = .scanning k length index crc) (hindex : index < length / 2) :
    u.sequencerAccess =
      u.movedTo (.scanning k length (index + 1) (crcWord crc (u.sram.read (u.save.stagingBase k + index)))) := by
  have hwants : u.save.wants = true := by rw [Save.wants, h]; exact decide_eq_true hindex
  rw [sequencerAccess_wants hwants, Ef24.sequencerStep, h]
  rfl

theorem sequencerAccess_verifying (h : u.save.sequencer = .verifying k index crc)
    (hindex : index < (u.save.slot k).record.dataLength.toNat / 2) :
    u.sequencerAccess =
      u.movedTo (.verifying k (index + 1) (crcWord crc (u.sram.read (u.save.liveBase k + index)))) := by
  have hwants : u.save.wants = true := by rw [Save.wants, h]; exact decide_eq_true hindex
  rw [sequencerAccess_wants hwants, Ef24.sequencerStep, h]
  rfl

section
variable {held : Option Word} (h : u.save.sequencer = .copying k index held) (hindex : index < u.save.slotWords k)
include h hindex

theorem sequencerAccess_copying : u.sequencerAccess = (u.copyNext k index held).takeSramPort := by
  have hwants : u.save.wants = true := by rw [Save.wants, h]; exact decide_eq_true hindex
  rw [sequencerAccess_wants hwants, Ef24.sequencerStep, h]

theorem sequencerAccess_copyEmpty (hvalid : (u.save.slot k).record.valid = false) :
    u.sequencerAccess = u.wroteTo (u.save.stagingBase k + index) 0 (.copying k (index + 1) none) := by
  rw [sequencerAccess_copying h hindex]
  exact congrArg Ef24.takeSramPort (if_neg (by rw [hvalid]; exact Bool.false_ne_true))

end

theorem sequencerAccess_copyRead (h : u.save.sequencer = .copying k index none) (hindex : index < u.save.slotWords k)
    (hvalid : (u.save.slot k).record.valid = true) :
    u.sequencerAccess = u.movedTo (.copying k index (some (u.sram.read (u.save.liveBase k + index)))) := by
  rw [sequencerAccess_copying h hindex]
  exact congrArg Ef24.takeSramPort (if_pos hvalid)

theorem sequencerAccess_copyWrite (h : u.save.sequencer = .copying k index (some w)) (hindex : index < u.save.slotWords k)
    (hvalid : (u.save.slot k).record.valid = true) :
    u.sequencerAccess = u.wroteTo (u.save.stagingBase k + index) w (.copying k (index + 1) none) := by
  rw [sequencerAccess_copying h hindex]
  exact congrArg Ef24.takeSramPort (if_pos hvalid)

end

/-- Settles O54: the port's access by its claim, the sequencer's by its step, and the memory's writes. -/
theorem portAccessesComplete : Obligations.PortAccessesComplete := by
  refine ⟨?accesses, fun m a b w => ⟨fun hwf => Memory.read_write_same hwf a w, fun h => Memory.read_write_other m h w⟩,
    fun m a w rest => ⟨rfl, rfl⟩⟩
  intro s
  have hdrain := @exec_postedWriteDrain_port s
  have haccess := @exec_sequencerAccess_port s
  generalize s.settled = u at hdrain haccess ⊢
  refine ⟨fun p rest hport hbuffer => ?drain, fun hport => ?sequencer⟩
  case drain => rw [hdrain hport, drainOne_cons hbuffer]
  case sequencer =>
    rw [haccess hport]
    refine ⟨fun sizes a w rest h => ?_, fun commit k r a w rest h => ?_, fun commit k r a w rest h => ?_,
      fun commit k a w rest h => ?_, fun k length index crc h hindex => ?_, fun k index crc h hindex => ?_,
      fun k index h hindex => ⟨fun hvalid => ?_, fun hvalid => ?_⟩, fun k index w h hindex hvalid => ?_⟩
    · exact congrArg s.answering (sequencerAccess_formatting h)
    · exact congrArg s.answering (sequencerAccess_intent h)
    · exact congrArg s.answering (sequencerAccess_switching h)
    · exact congrArg s.answering (sequencerAccess_closing h)
    · exact congrArg s.answering (sequencerAccess_scanning h hindex)
    · exact congrArg s.answering (sequencerAccess_verifying h hindex)
    · exact congrArg s.answering (sequencerAccess_copyRead h hindex hvalid)
    · exact congrArg s.answering (sequencerAccess_copyEmpty h hindex hvalid)
    · exact congrArg s.answering (sequencerAccess_copyWrite h hindex hvalid)

end Sys2Proof.Machine
end

section
/-! PROOFS. The steps of a commit and of a discard (Chapter 7), and the words of a slot record (R105, R106, R114, R115, R117,
R118, R120). -/

namespace Sys2Proof.Machine

/-! ## The rows of the steps' ends -/

/-- The row of a step's end that is due while the core runs. -/
theorem becoming_endStep {s : State} {due : Ef24 → Bool} (finish : Ef24 → Ef24) (hr : s.coreRunning = true)
    (hd : due s.toEf24 = true) : s.becoming (s.toEf24.endStep due finish) = s.answering (finish s.toEf24) :=
  congrArg s.becoming (endStep_due finish hr hd)

section
variable {s : State} {k : Nat} {commit : Bool} {r : SlotRecord}

section
variable (hr : s.coreRunning = true)
include hr

theorem exec_drainingDone_due (h : s.save.drainingDue = true) :
    exec .drainingDone s = s.answering s.toEf24.leaveDraining :=
  (exec_drainingDone s).trans (becoming_event _ hr h)

theorem exec_scanDone_due (h : s.scanDue = true) : exec .scanDone s = s.answering s.toEf24.leaveScanning :=
  (exec_scanDone s).trans (becoming_endStep _ hr h)

theorem exec_intentDone_due (h : s.save.sequencer = .intent commit k r []) :
    exec .intentDone s = s.answering s.toEf24.finishIntent :=
  (exec_intentDone s).trans (becoming_endStep _ hr ((intentDue_iff _).mpr ⟨commit, k, r, h⟩))

theorem exec_switchingDone_due (h : s.save.sequencer = .switching commit k r []) :
    exec .switchingDone s = s.answering s.toEf24.finishSwitching :=
  (exec_switchingDone s).trans (becoming_endStep _ hr ((switchingDue_iff _).mpr ⟨commit, k, r, h⟩))

theorem exec_closingDone_due (h : s.save.sequencer = .closing commit k []) :
    exec .closingDone s = s.answering s.toEf24.finishClosing :=
  (exec_closingDone s).trans (becoming_endStep _ hr ((closingDue_iff _).mpr ⟨commit, k, h⟩))

end

/-! The same rows while the step's last access is in progress, which completes first (log 10). -/

section
variable {a length index : Nat} {w crc : Word} (hport : s.settled.save.port = some .sequencer)
include hport

theorem exec_scanDone_last (h : s.settled.save.sequencer = .scanning k length index crc) (hindex : index + 1 = length / 2) :
    exec .scanDone s = s.answering (s.settled.movedTo (.scanning k length (index + 1)
      (crcWord crc (s.settled.sram.read (s.settled.save.stagingBase k + index))))).leaveScanning := by
  have hlast : index < length / 2 := by omega
  have haccess := sequencerAccess_scanning h hlast
  have hdue : s.settled.sequencerAccess.scanDue = true := by
    rw [haccess]
    exact (scanDue_iff _).mpr (.inl ⟨k, length, index + 1, _, rfl, by omega⟩)
  rw [exec_scanDone, endStep_last _ (scan_not_due h hlast) hport hdue, haccess]

theorem exec_intentDone_last (h : s.settled.save.sequencer = .intent commit k r [(a, w)]) :
    exec .intentDone s = s.answering (s.settled.wroteTo a w (.intent commit k r [])).finishIntent := by
  have haccess := sequencerAccess_intent h
  have hdue : s.settled.sequencerAccess.save.intentDue = true := by
    rw [haccess]
    rfl
  rw [exec_intentDone, endStep_last (due := (·.save.intentDue)) _ (intent_not_due h) hport hdue, haccess]

theorem exec_switchingDone_last (h : s.settled.save.sequencer = .switching commit k r [(a, w)]) :
    exec .switchingDone s = s.answering (s.settled.wroteTo a w (.switching commit k r [])).finishSwitching := by
  have haccess := sequencerAccess_switching h
  have hdue : s.settled.sequencerAccess.save.switchingDue = true := by
    rw [haccess]
    rfl
  rw [exec_switchingDone, endStep_last (due := (·.save.switchingDue)) _ (switching_not_due h) hport hdue, haccess]

theorem exec_closingDone_last (h : s.settled.save.sequencer = .closing commit k [(a, w)]) :
    exec .closingDone s = s.answering (s.settled.wroteTo a w (.closing commit k [])).finishClosing := by
  have haccess := sequencerAccess_closing h
  have hdue : s.settled.sequencerAccess.save.closingDue = true := by
    rw [haccess]
    rfl
  rw [exec_closingDone, endStep_last (due := (·.save.closingDue)) _ (closing_not_due h) hport hdue, haccess]

end

end

/-! ## What an end makes of the chip -/

section
variable {u : Ef24} {k length index : Nat} {crc : Word} {commit : Bool} {r : SlotRecord} {writes : List (Nat × Word)}

theorem leaveDraining_commit (h : u.save.sequencer = .commitDraining k length) :
    u.leaveDraining = u.sequence (.scanning k length 0 crcStart) := by
  rw [Ef24.leaveDraining, h]

theorem leaveDraining_seed (h : u.save.sequencer = .seedDraining k) :
    u.leaveDraining = u.sequence (.copying k 0 none) := by
  rw [Ef24.leaveDraining, h]

theorem leaveDraining_format {sizes : List Nat} (h : u.save.sequencer = .formatDraining sizes) :
    u.leaveDraining = u.sequence (.formatting sizes (formatWrites sizes (Config.sramCodeTaken u.sramCode))) := by
  rw [Ef24.leaveDraining, h]

theorem leaveScanning_scanning (h : u.save.sequencer = .scanning k length index crc) :
    u.leaveScanning = u.guard k length crc := by
  rw [Ef24.leaveScanning, h]

theorem leaveScanning_guarding (h : u.save.sequencer = .guarding k length crc) :
    u.leaveScanning = u.guard k length crc := by
  rw [Ef24.leaveScanning, h]

theorem finishIntent_of (h : u.save.sequencer = .intent commit k r writes) :
    u.finishIntent = { u with save := { u.save with
      slots := u.save.slots.setIfInBounds k { u.save.slot k with phase := .intentWritten (intentView commit r) }
      sequencer := .switching commit k r (slotRecordWrites k r) } } := by
  rw [Ef24.finishIntent, h]
  rfl

theorem finishSwitching_of (h : u.save.sequencer = .switching commit k r writes) :
    u.finishSwitching = { u with save := { u.save with
      slots := u.save.slots.setIfInBounds k { u.save.slot k with record := r, phase := .none }
      sequencer := .closing commit k intentClear } } := by
  rw [Ef24.finishSwitching, h]
  rfl

theorem finishClosing_commit (h : u.save.sequencer = .closing true k writes) :
    u.finishClosing = ({ u with save := { u.save with
      guard := false, slots := u.save.slots.setIfInBounds k { u.save.slot k with bad := false }
      sequencer := .idle } } : Ef24).postDone .slotCommit .ok k := by
  rw [Ef24.finishClosing, h]
  rfl

theorem finishClosing_discard (h : u.save.sequencer = .closing false k writes) :
    u.finishClosing = (u.sequence .idle).postDone .slotDiscard .ok k := by
  rw [Ef24.finishClosing, h]
  rfl

end

/-- The words of a slot record at slot k's place, check word last (R105, R106). -/
theorem slotRecordWrites_eq (k : Nat) (r : SlotRecord) :
    slotRecordWrites k r =
      (List.range 10).map (fun j => (16 + 16 * k + j, r.words.getD j 0)) ++ [(16 + 16 * k + 15, crcOf r.words)] := by
  unfold slotRecordWrites recordWrites
  rw [slotRecord_words]
  rfl

/-- Settles O55: the ends that are due, the same ends with the last access in progress, and the slot record's words. -/
theorem commitStepsFollow : Obligations.CommitStepsFollow := by
  refine ⟨?due, ?last, by decide, fun k r => ?words⟩
  case due =>
    intro s k u x drained at_ record hr
    refine ⟨fun length h hdrained => ?commitDrained, fun h hdrained => ?seedDrained, fun sizes h hbuffer => ?formatDrained,
      fun length index crc h => ?scanned, fun commit r h => ?intent, fun commit r h => ?switched, fun h => ?committed,
      fun h => ?discarded⟩
    case commitDrained =>
      rw [exec_drainingDone_due hr ((drainingDue_iff _).mpr (.inr ⟨k, .inr ⟨length, h⟩, hdrained⟩)), leaveDraining_commit h]
      rfl
    case seedDrained =>
      rw [exec_drainingDone_due hr ((drainingDue_iff _).mpr (.inr ⟨k, .inl h, hdrained⟩)), leaveDraining_seed h]
      rfl
    case formatDrained =>
      rw [exec_drainingDone_due hr ((drainingDue_iff _).mpr (.inl ⟨sizes, h, hbuffer⟩)), leaveDraining_format h]
      rfl
    case scanned =>
      have hleave : u.leaveScanning = u.guard k length crc :=
        h.elim (fun hq => leaveScanning_scanning hq.1) fun hq => leaveScanning_guarding hq.1
      have hdue : s.scanDue = true := (scanDue_iff _).mpr
        (h.imp (fun hq => ⟨k, length, index, crc, hq⟩) fun hq => ⟨⟨k, length, crc, hq.1⟩, hq.2⟩)
      rw [exec_scanDone_due hr hdue]
      exact congrArg s.answering hleave
    case intent => rw [exec_intentDone_due hr h, finishIntent_of h]; rfl
    case switched => rw [exec_switchingDone_due hr h, finishSwitching_of h]; rfl
    case committed => rw [exec_closingDone_due hr h, finishClosing_commit h]
    case discarded => rw [exec_closingDone_due hr h, finishClosing_discard h]; rfl
  case last =>
    intro s k
    have hscan := @exec_scanDone_last s k
    have hintent := @exec_intentDone_last s k
    have hswitching := @exec_switchingDone_last s k
    have hclosing := @exec_closingDone_last s k
    generalize s.settled = u at hscan hintent hswitching hclosing ⊢
    intro u x at_ wrote slotted record hport
    refine ⟨fun length index crc h hindex => ?_, fun commit r a w h => ?_, fun commit r a w h => ?_, fun a w h => ?_,
      fun a w h => ?_⟩
    · rw [hscan hport h hindex, leaveScanning_scanning rfl]
      rfl
    · rw [hintent hport h, finishIntent_of rfl]
      rfl
    · rw [hswitching hport h, finishSwitching_of rfl]
      rfl
    · rw [hclosing hport h, finishClosing_commit rfl]
      rfl
    · rw [hclosing hport h, finishClosing_discard rfl]
      rfl
  case words =>
    intro words
    have hwords : r.words = words := slotRecord_words r
    rw [← hwords]
    exact slotRecordWrites_eq k r

end Sys2Proof.Machine
end

section
/-! PROOFS. Start-up recovery (Chapter 7): what each of its accesses makes of the chip, and the next slot verified (R105, R126 to
R128). -/

namespace Sys2Proof.Machine

/-! ## The words that recovery reads, in order (section 13.6) -/

theorem volumeRecordWords_getD {n : Nat} (h : n < 11) : volumeRecordWords.getD n 0 = n := by
  have hall : ∀ n, n < 11 → volumeRecordWords.getD n 0 = n := by decide
  exact hall n h

theorem intentRecordWords_getD {n : Nat} (h : n < 22) : intentRecordWords.getD n 0 = 144 + n := by
  have hall : ∀ n, n < 22 → intentRecordWords.getD n 0 = 144 + n := by decide
  exact hall n h

theorem slotRecordWords_getD (k : Nat) {n : Nat} (h : n < 10) : (slotRecordWords k).getD n 0 = 16 + 16 * k + n := by
  interval_cases n <;> rfl

/-- A list with one word more. -/
theorem length_snoc_lt (got : List Word) (w : Word) (n : Nat) : (got ++ [w]).length < n + 1 ↔ got.length < n := by
  rw [List.length_append, List.length_singleton, Nat.add_lt_add_iff_right]

section
variable {u : Ef24}

/-! ## The volume record (R126) -/

theorem recoveryAccess_volumeMore {got : List Word} (h : got.length < 11) :
    u.recoveryAccess (.volumeRecord got) = u.recover (.volumeRecord (got ++ [u.sram.read got.length])) := by
  rw [Ef24.recoveryAccess, volumeRecordWords_getD h]
  exact if_pos ((length_snoc_lt _ _ 11).mpr h)

theorem recoveryAccess_volumeLast {got : List Word} (h : got.length = 11) :
    u.recoveryAccess (.volumeRecord got) = u.judgeVolume (got ++ [u.sram.read 15]) := by
  rw [Ef24.recoveryAccess, h]
  exact if_neg (by rw [show volumeRecordWords.length = 11 + 1 from rfl, length_snoc_lt]; omega)

theorem judgeVolume_valid {ws : List Word} (h : volumeValid ws u.sramCode = true) :
    u.judgeVolume ws = { u with save := { u.save with
      slotCount := (imageWord ws 1).toNat, sizes := volumeSizes ws, sequencer := .recovering (.intentRecord []) } } :=
  if_pos h

theorem judgeVolume_invalid {ws : List Word} (h : volumeValid ws u.sramCode = false) :
    u.judgeVolume ws = { u with save := { u.save with volume := .unformatted, sequencer := .idle } } :=
  if_neg (by rw [h]; exact Bool.false_ne_true)

/-! ## The intent (R126; log 24) -/

theorem recoveryAccess_intentMore {got : List Word} (h : got.length < 22) :
    u.recoveryAccess (.intentRecord got) = u.recover (.intentRecord (got ++ [u.sram.read (144 + got.length)])) := by
  rw [Ef24.recoveryAccess, intentRecordWords_getD h]
  exact if_pos ((length_snoc_lt _ _ 22).mpr h)

theorem recoveryAccess_intentLast {got : List Word} (h : got.length = 22) :
    u.recoveryAccess (.intentRecord got) = u.readIntent (got ++ [u.sram.read 175]) := by
  rw [Ef24.recoveryAccess, h]
  exact if_neg (by rw [show intentRecordWords.length = 22 + 1 from rfl, length_snoc_lt]; omega)

section
variable {ws : List Word}

theorem readIntent_invalid (h : intentValid ws = false) : u.readIntent ws = u.recover (.slotRecord 0 []) :=
  if_neg (by rw [h]; exact Bool.false_ne_true)

theorem readIntent_empty (h : intentValid ws = true) (hnew : (SlotRecord.ofWords (ws.drop 2)).valid = false) :
    u.readIntent ws =
      u.resolveIntent (intentSlot ws) (SlotRecord.ofWords (ws.drop 2)) (SlotRecord.ofWords (ws.drop 12)) true :=
  (if_pos h).trans (if_neg (by rw [hnew]; exact Bool.false_ne_true))

theorem readIntent_judged (h : intentValid ws = true) (hnew : (SlotRecord.ofWords (ws.drop 2)).valid = true) :
    u.readIntent ws =
      u.judgeIntent (intentSlot ws) (SlotRecord.ofWords (ws.drop 2)) (SlotRecord.ofWords (ws.drop 12)) 0 crcStart :=
  (if_pos h).trans (if_pos hnew)

end

section
variable {k index : Nat} {new prior : SlotRecord} {crc : Word}

theorem judgeIntent_scans (h : index < new.dataLength.toNat / 2) :
    u.judgeIntent k new prior index crc = u.recover (.intentScan k new prior index crc) := if_pos h

theorem judgeIntent_resolves (h : new.dataLength.toNat / 2 ≤ index) :
    u.judgeIntent k new prior index crc = u.resolveIntent k new prior (decide (crc = new.crc)) :=
  if_neg (Nat.not_lt.mpr h)

end

section
variable {k a : Nat} {w : Word} {rest : List (Nat × Word)}

theorem recoveryAccess_resolvingMore {forward : Bool} (h : rest ≠ []) :
    u.recoveryAccess (.resolving k forward ((a, w) :: rest)) =
      ({ u with sram := u.sram.write a w } : Ef24).recover (.resolving k forward rest) := if_neg h

theorem recoveryAccess_resolvingLast {forward : Bool} (h : rest = []) :
    u.recoveryAccess (.resolving k forward ((a, w) :: rest)) =
      (({ u with sram := u.sram.write a w } : Ef24).post .recovery k (resolvedDetail forward)).recover (.slotRecord 0 []) :=
  if_pos h

/-! ## The slot records (R127) -/

theorem recoveryAccess_recordMore {got : List Word} (h : got.length < 10) :
    u.recoveryAccess (.slotRecord k got) =
      u.recover (.slotRecord k (got ++ [u.sram.read (16 + 16 * k + got.length)])) := by
  rw [Ef24.recoveryAccess, slotRecordWords_getD k h]
  exact if_pos ((length_snoc_lt _ _ 10).mpr h)

theorem recoveryAccess_recordLast {got : List Word} (h : got.length = 10) :
    u.recoveryAccess (.slotRecord k got) = u.judgeRecord k (got ++ [u.sram.read (16 + 16 * k + 15)]) := by
  rw [Ef24.recoveryAccess, h]
  exact if_neg (by rw [show (slotRecordWords k).length = 10 + 1 from rfl, length_snoc_lt]; omega)

/-- A record that passes its check is taken. -/
theorem judgeRecord_taken {got : List Word} (hlength : got.length = 10) (h : crcOf got = w) :
    u.judgeRecord k (got ++ [w]) = (u.copyRecord k (SlotRecord.ofWords (got ++ [w]))).afterRecord k :=
  if_pos (by rw [slotRecord_checks got w hlength]; exact decide_eq_true h)

/-- A record that fails its check is written EMPTY. -/
theorem judgeRecord_rewritten {got : List Word} (hlength : got.length = 10) (h : crcOf got ≠ w) :
    u.judgeRecord k (got ++ [w]) = u.recover (.rewriting k (slotRecordWrites k (SlotRecord.empty 0))) :=
  if_neg (by rw [slotRecord_checks got w hlength, decide_eq_true_iff]; exact h)

theorem recoveryAccess_rewritingMore (h : rest ≠ []) :
    u.recoveryAccess (.rewriting k ((a, w) :: rest)) =
      ({ u with sram := u.sram.write a w } : Ef24).recover (.rewriting k rest) := if_neg h

theorem recoveryAccess_rewritingLast (h : rest = []) :
    u.recoveryAccess (.rewriting k ((a, w) :: rest)) =
      ((({ u with sram := u.sram.write a w } : Ef24).copyRecord k (SlotRecord.empty 0)).post .recovery k 2).afterRecord k :=
  if_pos h

end

/-- After the last slot record the first VALID slot is verified. -/
theorem afterRecord_last {k : Nat} (h : u.save.slotCount ≤ k + 1) : u.afterRecord k = u.verifyFrom 8 0 :=
  if_neg (Nat.not_lt.mpr h)

/-- The port is left after a record, whatever follows it. -/
theorem afterRecord_leavesPort (u : Ef24) (k : Nat) :
    (u.afterRecord k).takeSramPort =
      if k + 1 < u.save.slotCount then u.movedTo (.recovering (.slotRecord (k + 1) []))
      else (u.verifyFrom 8 0).takeSramPort :=
  apply_ite Ef24.takeSramPort _ _ _

/-! ## The live images (R128) -/

section
variable {k index : Nat} {crc : Word}

theorem recoveryAccess_verifyMore (h : index + 1 < (u.save.slot k).record.dataLength.toNat / 2) :
    u.recoveryAccess (.verifying k index crc) =
      u.recover (.verifying k (index + 1) (crcWord crc (u.sram.read (u.save.liveBase k + index)))) := if_pos h

theorem recoveryAccess_verifyLast (h : (u.save.slot k).record.dataLength.toNat / 2 ≤ index + 1) :
    u.recoveryAccess (.verifying k index crc) =
      (u.judgeLive k (crcWord crc (u.sram.read (u.save.liveBase k + index)))).verifyFrom 8 (k + 1) :=
  if_neg (Nat.not_lt.mpr h)

theorem judgeLive_match (h : crc = (u.save.slot k).record.crc) : u.judgeLive k crc = u := if_pos h

theorem judgeLive_differs (h : crc ≠ (u.save.slot k).record.crc) :
    u.judgeLive k crc = ({ u with save := { u.save with
      slots := u.save.slots.setIfInBounds k { u.save.slot k with bad := true } } } : Ef24).post .recovery k 3 := if_neg h

end

end

end Sys2Proof.Machine
end

section
/-! PROOFS. The ends of a seed, a format, a verify and recovery (Chapter 7), due and with the last access in progress (R114, R115,
R121, R128). -/

namespace Sys2Proof.Machine

/-! ## What an end makes of the chip -/

section
variable {u : Ef24} {k index : Nat} {crc : Word}

theorem finishSeed_of {held : Option Word} (h : u.save.sequencer = .copying k index held) :
    u.finishSeed = ({ u with save := { u.save with
      slots := u.save.slots.setIfInBounds k { u.save.slot k with tainted := false }, sequencer := .idle } } : Ef24).postDone
        .slotSeed .ok k := by
  rw [Ef24.finishSeed, h]
  rfl

/-- The records of the eight slots after all are made EMPTY (R114). -/
theorem emptyRecords_slot (x : Save) {k : Nat} (hk : k < 8) :
    x.emptyRecords.slot k = { x.slot k with record := SlotRecord.empty 0, phase := .none } := by
  have h := foldSlots_slot (fun y => { y with record := SlotRecord.empty 0, phase := .none }) (Nat.le_refl 8) x k
  rw [if_pos hk] at h
  exact h

theorem finishFormat_of {sizes : List Nat} {writes : List (Nat × Word)} (h : u.save.sequencer = .formatting sizes writes) :
    u.finishFormat = ({ u with save := { u.save with
      slots := u.save.emptyRecords.slots, slotCount := sizes.length, sizes := sizes, volume := .ready
      sequencer := .idle } } : Ef24).postDone .saveFormat .ok 0 := by
  rw [Ef24.finishFormat, h]
  have hrecords := emptyRecords_eq u.save
  dsimp only [Ef24.onSave]
  generalize u.save.emptyRecords = x at hrecords ⊢
  rw [hrecords]

/-- A verify ends by whether the CRCs agree (R121). -/
theorem finishVerify_of (h : u.save.sequencer = .verifying k index crc) :
    u.finishVerify = ({ u with save := { u.save with
      slots := u.save.slots.setIfInBounds k
        { u.save.slot k with bad := decide (crc ≠ (u.save.slot k).record.crc) }
      sequencer := .idle } } : Ef24).postDone .slotVerify
        (if crc = (u.save.slot k).record.crc then .ok else .crcBad) k := by
  rw [Ef24.finishVerify, h]
  dsimp only
  by_cases hcrc : crc = (u.save.slot k).record.crc
  · rw [if_pos hcrc, if_pos hcrc, decide_eq_false (not_not.mpr hcrc)]
    rfl
  · rw [if_neg hcrc, if_neg hcrc, decide_eq_true hcrc]
    rfl

end

theorem wroteTo_seedDue {u : Ef24} {k index a : Nat} {w : Word} {held : Option Word} (h : u.save.slotWords k ≤ index) :
    (u.wroteTo a w (.copying k index held)).save.seedDue = true :=
  (seedDue_iff _).mpr ⟨k, index, held, rfl, h⟩

theorem movedTo_verifyDue {u : Ef24} {k index : Nat} {crc : Word}
    (h : (u.save.slot k).record.dataLength.toNat / 2 ≤ index) :
    (u.movedTo (.verifying k index crc)).save.verifyDue = true :=
  (verifyDue_iff _).mpr ⟨k, index, crc, rfl, h⟩

/-! ## The rows -/

section
variable {s : State} {k index : Nat} {crc : Word}

section
variable (hr : s.coreRunning = true)
include hr

theorem exec_seedDone_due {held : Option Word} (h : s.save.sequencer = .copying k index held)
    (hindex : s.save.slotWords k ≤ index) : exec .seedDone s = s.answering s.toEf24.finishSeed :=
  (exec_seedDone s).trans
    (becoming_endStep (due := (·.save.seedDue)) _ hr ((seedDue_iff _).mpr ⟨k, index, held, h, hindex⟩))

theorem exec_formatDone_due {sizes : List Nat} (h : s.save.sequencer = .formatting sizes []) :
    exec .formatDone s = s.answering s.toEf24.finishFormat :=
  (exec_formatDone s).trans (becoming_endStep (due := (·.save.formatDue)) _ hr ((formatDue_iff _).mpr ⟨sizes, h⟩))

theorem exec_verifyDone_due (h : s.save.sequencer = .verifying k index crc)
    (hindex : (s.save.slot k).record.dataLength.toNat / 2 ≤ index) :
    exec .verifyDone s = s.answering s.toEf24.finishVerify :=
  (exec_verifyDone s).trans
    (becoming_endStep (due := (·.save.verifyDue)) _ hr ((verifyDue_iff _).mpr ⟨k, index, crc, h, hindex⟩))

theorem exec_recoveryDone_due (h : s.save.sequencer = .recovering .finished) :
    exec .recoveryDone s = s.answering s.toEf24.finishRecovery :=
  (exec_recoveryDone s).trans (becoming_endStep (due := (·.save.recoveryDue)) _ hr ((recoveryDue_iff _).mpr h))

end

section
variable (hport : s.settled.save.port = some .sequencer)
include hport

/-- The seed's last word is written, and the seed ends. -/
theorem exec_seedDone_last {held : Option Word} {a : Nat} {w : Word} (h : s.settled.save.sequencer = .copying k index held)
    (hindex : index + 1 = s.settled.save.slotWords k)
    (haccess : s.settled.sequencerAccess = s.settled.wroteTo a w (.copying k (index + 1) none)) :
    exec .seedDone s = s.answering (s.settled.wroteTo a w (.copying k (index + 1) none)).finishSeed := by
  have hdue : s.settled.sequencerAccess.save.seedDue = true := by
    rw [haccess]
    exact wroteTo_seedDue hindex.ge
  rw [exec_seedDone, endStep_last (due := (·.save.seedDue)) _ (seed_not_due h (by omega)) hport hdue, haccess]

theorem exec_formatDone_last {sizes : List Nat} {a : Nat} {w : Word}
    (h : s.settled.save.sequencer = .formatting sizes [(a, w)]) :
    exec .formatDone s = s.answering (s.settled.wroteTo a w (.formatting sizes [])).finishFormat := by
  have haccess := sequencerAccess_formatting h
  have hdue : s.settled.sequencerAccess.save.formatDue = true := by
    rw [haccess]
    rfl
  rw [exec_formatDone, endStep_last (due := (·.save.formatDue)) _ (format_not_due h) hport hdue, haccess]

theorem exec_verifyDone_last (h : s.settled.save.sequencer = .verifying k index crc)
    (hindex : index + 1 = (s.settled.save.slot k).record.dataLength.toNat / 2) :
    exec .verifyDone s = s.answering (s.settled.movedTo (.verifying k (index + 1)
      (crcWord crc (s.settled.sram.read (s.settled.save.liveBase k + index))))).finishVerify := by
  have hlast : index < (s.settled.save.slot k).record.dataLength.toNat / 2 := by omega
  have haccess := sequencerAccess_verifying h hlast
  have hdue : s.settled.sequencerAccess.save.verifyDue = true := by
    rw [haccess]
    exact movedTo_verifyDue hindex.ge
  rw [exec_verifyDone, endStep_last (due := (·.save.verifyDue)) _ (verify_not_due h hlast) hport hdue, haccess]

/-- Recovery's last access completes, and recovery ends. -/
theorem exec_recoveryDone_last {stage : RecoveryStage} {v : Ef24} (h : s.settled.save.sequencer = .recovering stage)
    (haccess : s.settled.recoveryAccess stage = v) (hends : v.save.sequencer = .recovering .finished) :
    exec .recoveryDone s = s.answering v.takeSramPort.finishRecovery := by
  have hwants : s.settled.save.wants = true := settled_wants hport
  have hne : stage ≠ .finished := by
    rintro rfl
    rw [Save.wants, h] at hwants
    cases hwants
  have hstep : s.settled.sequencerAccess = v.takeSramPort := by
    rw [sequencerAccess_wants hwants, Ef24.sequencerStep, h]
    exact congrArg Ef24.takeSramPort haccess
  have hdue : s.settled.sequencerAccess.save.recoveryDue = true := by
    rw [hstep]
    exact (recoveryDue_iff _).mpr hends
  rw [exec_recoveryDone, endStep_last (due := (·.save.recoveryDue)) _ (recovery_not_due h hne) hport hdue, hstep]

end

end

end Sys2Proof.Machine
end

section
/-! PROOFS. O56: the ends of a seed, a format, a verify and recovery, and recovery's accesses (Chapter 7). -/

namespace Sys2Proof.Machine

/-- Whether an intent record's words are valid (R105). -/
theorem intentValid_iff (ws : List Word) :
    intentValid ws = true ↔ ws.getD 0 0 = 0x5EF2 ∧ crcOf (ws.take 22) = ws.getD 22 0 := by
  unfold intentValid checkPasses imageWord recordMark
  rw [Bool.and_eq_true, beq_iff_eq, beq_iff_eq]

/-- Settles O56: the ends that are due, recovery's accesses stage by stage, the next slot verified, the ends with the last access
in progress, and when a record is valid. -/
theorem seedFormatVerifyRecoveryEnd : Obligations.SeedFormatVerifyRecoveryEnd := by
  refine ⟨?due, ?accesses, ?verification, ?last, fun ws code => ⟨volumeValid_iff ws code, intentValid_iff ws⟩,
    fun ws => rfl⟩
  case due =>
    intro s k u x idle hr
    refine ⟨fun index held h hindex => ?seed, fun sizes h => ⟨u.save.emptyRecords.slots, ?format, fun j hj => ?slots⟩,
      fun index crc h hindex => ?verify, fun h => ?recovery⟩
    case seed => rw [exec_seedDone_due hr h hindex, finishSeed_of h]
    case format => rw [exec_formatDone_due hr h, finishFormat_of h]
    case slots => exact emptyRecords_slot u.save hj
    case verify => rw [exec_verifyDone_due hr h hindex, finishVerify_of h]
    case recovery => rw [exec_recoveryDone_due hr h]; rfl
  case accesses =>
    intro s
    have hrow := @recoveryAccess_exec s
    generalize s.settled = u at hrow ⊢
    intro u word at_ freed wrote resolves after recorded hport
    have hafter (v : Ef24) (k : Nat) : (v.afterRecord k).takeSramPort = after v k := afterRecord_leavesPort v k
    refine ⟨fun got h => ?volume, fun got h => ?intent, fun k new prior index crc h => ?scan,
      fun k forward a w rest h => ?resolving, fun k got h => ?record, fun k a w rest h => ?rewriting,
      fun k index crc h => ?verifying⟩ <;> rw [hrow _ hport h rfl]
    case volume =>
      refine ⟨fun hlength => ?_, fun hlength => ⟨fun hvalid => ?_, fun hvalid => ?_⟩⟩
      · rw [recoveryAccess_volumeMore hlength]; rfl
      · rw [recoveryAccess_volumeLast hlength, judgeVolume_valid hvalid]; rfl
      · rw [recoveryAccess_volumeLast hlength, judgeVolume_invalid hvalid]; rfl
    case intent =>
      refine ⟨fun hlength => ?_, fun hlength => ⟨fun hvalid => ?_, fun hvalid hnew => ?_, fun hvalid hnew hshort => ?_,
        fun hvalid hnew hlong => ?_⟩⟩
      · rw [recoveryAccess_intentMore hlength]; rfl
      · rw [recoveryAccess_intentLast hlength, readIntent_invalid hvalid]; rfl
      · rw [recoveryAccess_intentLast hlength, readIntent_empty hvalid hnew]; rfl
      · rw [recoveryAccess_intentLast hlength, readIntent_judged hvalid hnew, judgeIntent_resolves (by omega),
          decide_eq_decide.mpr eq_comm]
        rfl
      · rw [recoveryAccess_intentLast hlength, readIntent_judged hvalid hnew, judgeIntent_scans (by omega)]; rfl
    case scan =>
      refine ⟨fun hindex => ?_, fun hindex => ?_⟩
      · exact congrArg (fun v => s.answering v.takeSramPort) (judgeIntent_scans hindex)
      · exact congrArg (fun v => s.answering v.takeSramPort) (judgeIntent_resolves hindex)
    case resolving =>
      refine ⟨fun hrest => ?_, fun hrest => ?_⟩
      · rw [recoveryAccess_resolvingMore hrest]; rfl
      · rw [recoveryAccess_resolvingLast hrest]; rfl
    case record =>
      refine ⟨fun hlength => ?_, fun hlength => ⟨fun hcrc => ?_, fun hcrc => ?_⟩⟩
      · rw [recoveryAccess_recordMore hlength]; rfl
      · rw [recoveryAccess_recordLast hlength, judgeRecord_taken hlength hcrc, hafter]; rfl
      · rw [recoveryAccess_recordLast hlength, judgeRecord_rewritten hlength hcrc]; rfl
    case rewriting =>
      refine ⟨fun hrest => ?_, fun hrest => ?_⟩
      · rw [recoveryAccess_rewritingMore hrest]; rfl
      · rw [recoveryAccess_rewritingLast hrest, hafter]; rfl
    case verifying =>
      refine ⟨fun hindex => ?_, fun hindex => ⟨fun hcrc => ?_, fun hcrc => ?_⟩⟩
      · rw [recoveryAccess_verifyMore hindex]; rfl
      · rw [recoveryAccess_verifyLast hindex, judgeLive_match hcrc]; rfl
      · rw [recoveryAccess_verifyLast hindex, judgeLive_differs hcrc]; rfl
  case verification =>
    intro v j hcount at_ waits
    obtain ⟨hfinished, hverifies⟩ := verifyFrom_spec 8 v j (by omega)
    refine ⟨hfinished, hverifies, fun m hwaits hleast hshort => ?_⟩
    have hjudged := verifyFrom_short 8 v j m (by omega) hwaits hleast hshort
    refine ⟨fun hcrc => ?_, fun hcrc => ?_⟩
    · rw [hjudged, judgeLive_match hcrc.symm]
    · rw [hjudged, judgeLive_differs (Ne.symm hcrc)]
  case last =>
    intro s k
    have hseed := @exec_seedDone_last s k
    have hformat := @exec_formatDone_last s
    have hverify := @exec_verifyDone_last s k
    have hrecovery := @exec_recoveryDone_last s
    generalize s.settled = u at hseed hformat hverify hrecovery ⊢
    intro u x word wrote idle seeded recorded ready ends hport
    have hindexed {index : Nat} (h : index + 1 = u.save.slotWords k) : index = u.save.slotWords k - 1 := by omega
    refine ⟨fun index w h hindex hvalid => ?copied, fun index held h hindex hvalid => ?cleared,
      fun sizes a w h => ⟨u.save.emptyRecords.slots, ?format, fun j hj => emptyRecords_slot u.save hj⟩,
      fun index crc h hindex => ?verify, fun got h hlength hcrc hcount => ?record, fun a w h hcount => ?rewriting,
      fun index crc h hindex => ?verifying⟩
    case copied =>
      rw [hseed hport h hindex (sequencerAccess_copyWrite h hindex.le hvalid), finishSeed_of rfl, hindexed hindex]
      rfl
    case cleared =>
      rw [hseed hport h hindex (sequencerAccess_copyEmpty h hindex.le hvalid), finishSeed_of rfl, hindexed hindex]
      rfl
    case format =>
      rw [hformat hport h, finishFormat_of rfl]
      rfl
    case verify =>
      rw [hverify hport h hindex, finishVerify_of rfl]
      rfl
    case record =>
      intro v hends
      have haccess : u.recoveryAccess (.slotRecord k got) = v := by
        rw [recoveryAccess_recordLast hlength, judgeRecord_taken hlength hcrc]
        exact afterRecord_last hcount
      exact hrecovery hport h haccess hends
    case rewriting =>
      intro v hends
      have haccess : u.recoveryAccess (.rewriting k [(a, w)]) = v := by
        rw [recoveryAccess_rewritingLast rfl]
        exact afterRecord_last hcount
      exact hrecovery hport h haccess hends
    case verifying =>
      intro crc' bad v hends
      have haccess : u.recoveryAccess (.verifying k index crc) = v := by
        rw [recoveryAccess_verifyLast hindex]
        unfold v
        by_cases hcrc : crc' = x.record.crc
        · rw [if_pos hcrc, judgeLive_match hcrc]
        · rw [if_neg hcrc, judgeLive_differs hcrc]
      exact hrecovery hport h haccess hends

end Sys2Proof.Machine
end

section
/-! PROOFS. The crystal second and the Day Schedule's firings (Chapters 9 and 10; R138, R139, R141, R142, R154, R160 to R164). -/

namespace Sys2Proof.Machine

/-! ## A second (R139, R141, R142, R154) -/

/-- A second counted: the calendar and the high-water instant rise together (R141). -/
def Ef24.counted (u : Ef24) : Ef24 :=
  { u with calendar := { u.calendar with now := u.calendar.now.next, high := u.calendar.now.next.instant } }

section
variable {u : Ef24}

theorem crystalSecond_last (hlast : u.calendar.now = DateTime.last) : u.crystalSecond = u := by
  have hsecond : u.second = u := if_pos hlast
  rw [Ef24.crystalSecond, hsecond, ite_self]

variable (hretained : u.power.retained = true) (hnow : u.calendar.now ≠ DateTime.last)
include hretained hnow

theorem crystalSecond_behind (hbehind : u.calendar.behind = true) : u.crystalSecond = u.secondBehind :=
  (if_pos hretained).trans ((if_neg hnow).trans (if_pos hbehind))

theorem crystalSecond_true (hbehind : u.calendar.behind = false) : u.crystalSecond = u.secondTrue :=
  (if_pos hretained).trans ((if_neg hnow).trans (if_neg (by rw [hbehind]; exact Bool.false_ne_true)))

end

section
variable {u : Ef24}

theorem secondBehind_on (h : u.calendar.now.next.instant ≠ u.calendar.high) :
    u.secondBehind = { u with calendar := { u.calendar with now := u.calendar.now.next } } := if_neg h

theorem secondBehind_catchesUp (h : u.calendar.now.next.instant = u.calendar.high) :
    u.secondBehind =
      ({ u with calendar := { u.calendar with now := u.calendar.now.next, behind := false } } : Ef24).noteCaughtUp :=
  if_pos h

theorem secondTrue_invalid (h : u.calendar.valid = false) : u.secondTrue = u.counted :=
  if_neg (show ¬ u.calendar.valid = true by rw [h]; exact Bool.false_ne_true)

theorem secondTrue_valid (h : u.calendar.valid = true) : u.secondTrue = u.counted.examineSecond :=
  if_pos h

end

/-- A second that is examined: a rollover, then a minute boundary. -/
theorem examineSecond_signals (u : Ef24) :
    u.examineSecond =
      let examined := if u.calendar.now.hour = u.calendar.dayStart ∧ u.calendar.now.minute = 0 ∧ u.calendar.now.second = 0
        then u.countRollover else u
      if u.calendar.now.second = 0 then examined.tellMinute else examined := by
  unfold Ef24.examineSecond DateTime.isRollover
  simp only [decide_eq_true_eq]

/-! ## The calendar's arithmetic (R138, R139) -/

/-- The next reading, carry by carry. -/
theorem next_carries (t : DateTime) : t.next =
    if t.second < 59 then { t with second := t.second + 1 }
    else if t.minute < 59 then { t with second := 0, minute := t.minute + 1 }
    else if t.hour < 23 then { t with second := 0, minute := 0, hour := t.hour + 1 }
    else if t.date < monthDays t.year t.month then { t with second := 0, minute := 0, hour := 0, date := t.date + 1 }
    else if t.month < 12 then { t with second := 0, minute := 0, hour := 0, date := 1, month := t.month + 1 }
    else { year := t.year + 1, month := 1, date := 1, hour := 0, minute := 0, second := 0 } := rfl

/-- The days before a reading, counted year by year and month by month. -/
theorem days_sum (t : DateTime) :
    t.days = ((List.range (t.year - 2000)).map (fun y => if y % 4 = 0 then 366 else 365)).sum +
      ((List.range (t.month - 1)).map (fun m => monthDays t.year (m + 1))).sum + (t.date - 1) := by
  rw [daysBeforeYear_sum]
  rfl

/-! ## Which entries fire (R160 to R162) -/

theorem firesOnRollover_eq (e : ScheduleEntry) (gameDay : Nat) :
    e.firesOnRollover gameDay = (e.enabled && decide (e.kindNamed = some .onRollover ∨
      (e.kindNamed = some .onGameDay ∧ e.fired = false ∧ e.target ≤ gameDay))) := by
  unfold ScheduleEntry.firesOnRollover
  cases e.kindNamed with
  | none => simp
  | some kind => cases kind <;> cases e.fired <;> simp

theorem firesAt_eq (e : ScheduleEntry) (hour minute weekday : Nat) :
    e.firesAt hour minute weekday = (e.enabled && decide (e.kindNamed = some .atTime ∧ e.hour = hour ∧
      e.minute = minute ∧ weekday < 7 ∧ e.word3.getLsbD weekday = true)) := by
  unfold ScheduleEntry.firesAt ScheduleEntry.onWeekday
  cases e.kindNamed with
  | none => simp
  | some kind => cases kind <;> simp [Bool.and_assoc]

/-! ## A firing (R163, R164) -/

theorem afterFiring_eq (e : ScheduleEntry) :
    e.afterFiring = { e with fired := if e.kindNamed = some .onGameDay then true else e.fired } := by
  unfold ScheduleEntry.afterFiring
  split <;> rfl

/-- The chip with an entry put in its place. -/
def Ef24.putEntry (u : Ef24) (i : Nat) (e : ScheduleEntry) : Ef24 :=
  { u with schedule := u.schedule.setIfInBounds i e }

theorem putEntry_entry (u : Ef24) {i : Nat} (e : ScheduleEntry) (hi : i < 16) : (u.putEntry i e).entry i = e :=
  table_get_put_same _ _ _ hi

theorem putEntry_putEntry (u : Ef24) (i : Nat) (e f : ScheduleEntry) : (u.putEntry i e).putEntry i f = u.putEntry i f := by
  unfold Ef24.putEntry
  rw [Vector.setIfInBounds_setIfInBounds]

/-- A firing, by the chip state that stands, once the Fired mark is set. -/
theorem fire_byChip (u : Ef24) (i : Nat) :
    let v := u.putEntry i (u.entry i).afterFiring
    u.fire i = match u.chip with
      | some .run => v.dispatch .schedule (v.entry i).action.toNat
      | some .enteringSleep => (v.setPending i true).postWake i
      | some .asleep => (v.setPending i true).postWake i
      | some .halted => v.setPending i true
      | none => v.setPending i true := rfl

section
variable (u : Ef24) {i : Nat} (hi : i < 16)
include hi

theorem setPending_putEntry (e : ScheduleEntry) :
    (u.putEntry i e).setPending i true = u.putEntry i { e with pending := true } := by
  have hset : (u.putEntry i e).setPending i true =
      (u.putEntry i e).putEntry i { (u.putEntry i e).entry i with pending := true } := rfl
  rw [hset, putEntry_entry u e hi, putEntry_putEntry]

theorem fire_run (h : u.chip = some .run) :
    u.fire i = (u.putEntry i (u.entry i).afterFiring).dispatch .schedule (u.entry i).afterFiring.action.toNat := by
  rw [fire_byChip, h]
  dsimp only
  rw [putEntry_entry u _ hi]

theorem fire_sleeping (h : u.chip = some .enteringSleep ∨ u.chip = some .asleep) :
    u.fire i = (u.putEntry i { (u.entry i).afterFiring with pending := true }).postWake i := by
  rcases h with h | h <;> rw [fire_byChip, h, ← setPending_putEntry u hi]

theorem fire_held (h : u.chip = some .halted ∨ u.chip = none) :
    u.fire i = u.putEntry i { (u.entry i).afterFiring with pending := true } := by
  rcases h with h | h <;> rw [fire_byChip, h, ← setPending_putEntry u hi]

theorem postWake_putEntry (e : ScheduleEntry) :
    (u.putEntry i e).postWake i = if e.wake = true then (u.putEntry i e).post .schedule i 0 else u.putEntry i e := by
  rw [Ef24.postWake, putEntry_entry u e hi]

end

/-- Settles O57: the second by the clock's state, the calendar's arithmetic, which entries fire and what a firing does. -/
theorem secondAdvancesCalendar : Obligations.SecondAdvancesCalendar := by
  refine ⟨?seconds, fun t h hlast => ⟨next_exists h hlast, next_instant h⟩, ?signals, ?firings, next_carries, rfl,
    fun t _ => ?instants⟩
  case seconds =>
    intro s
    have hrow := exec_calendarSecond s
    generalize s.settled = u at hrow ⊢
    intro u c t counted raised rolled examined hretained
    have hrolled : u.counted.countRollover = rolled := rfl
    refine ⟨fun hlast => ?last, fun hnow hbehind h => ?behind, fun hnow hbehind h => ?caughtUp,
      fun hnow hbehind hvalid => ?invalid, fun hnow hbehind hvalid => ?examined⟩
    case last => rw [hrow, crystalSecond_last hlast]
    case behind => rw [hrow, crystalSecond_behind hretained hnow hbehind, secondBehind_on h]
    case caughtUp =>
      rw [hrow, crystalSecond_behind hretained hnow hbehind, secondBehind_catchesUp h]
      rfl
    case invalid =>
      rw [hrow, crystalSecond_true hretained hnow hbehind, secondTrue_invalid hvalid]
      rfl
    case examined =>
      rw [hrow, crystalSecond_true hretained hnow hbehind, secondTrue_valid hvalid, examineSecond_signals, hrolled]
      rfl
  case signals =>
    intro u fires t onRollover onMinute
    refine ⟨?_, ?_⟩
    · rw [Ef24.tellRollover, funext fun e => firesOnRollover_eq e _]
      rfl
    · rw [Ef24.tellMinute, funext fun e => firesAt_eq e _ _ _]
      rfl
  case firings =>
    intro u i e fired marked hi
    have hfired : (u.entry i).afterFiring = fired := afterFiring_eq e
    refine ⟨fun h => ?run, fun h => ?sleeping, fun h => ?held⟩
    case run => rw [fire_run u hi h, hfired]; rfl
    case sleeping => rw [fire_sleeping u hi h, hfired, postWake_putEntry u hi]; rfl
    case held => rw [fire_held u hi h, hfired]; rfl
  case instants =>
    intro years months days
    have hdays : t.days = days := days_sum t
    rw [← hdays]
    exact ⟨rfl, rfl⟩

end Sys2Proof.Machine
end

section
/-! PROOFS. The supply (Chapter 12): VCC, the supply changes and their hold timers (R123, R174 to R178, R185). -/

namespace Sys2Proof.Machine

/-! ## The changes of the supply state -/

section
variable {u : Ef24} {c : SupplyChange}

theorem supplyChange_runs (h : Hold.supply c ∈ u.power.holds) : u.supplyChange c = u.changeSupply c :=
  if_pos (List.contains_iff_mem.mpr h)

theorem supplyChange_idle (h : Hold.supply c ∉ u.power.holds) : u.supplyChange c = u :=
  if_neg fun hmem => h (List.contains_iff_mem.mp hmem)

end

/-- A chip without a core in RUN, asleep or HALTED closes its gate only. -/
theorem halt_none {u : Ef24} (h : u.chip = none) : u.halt = u.closeGate := by
  have hchip : u.closeGate.chip = none := h
  unfold Ef24.halt
  dsimp only
  rw [hchip]

/-- HALTED: the gate closed, the fetch abandoned, AOUT and the motor at rest (R177). -/
theorem halt_some {u : Ef24} (h : u.chip ≠ none) :
    u.halt = { u.closeGate with
      chip := some .halted, romPort := .idle, sound := { u.sound with aout := 0 }
      rumble := { u.rumble with motor := { u.rumble.motor with strength := 0 } } } := by
  obtain ⟨x, hx⟩ := Option.ne_none_iff_exists'.mp h
  have hchip : u.closeGate.chip = some x := hx
  unfold Ef24.halt
  dsimp only
  rw [hchip]
  rfl

/-- The chip that reaches GOOD, before its core reset: a backup reset where retention was lost (R178, R185). -/
def Ef24.reached (u : Ef24) : Ef24 := if u.power.retained then u.setSupply .good else (u.setSupply .good).backupReset

theorem reached_crstLow (u : Ef24) : u.reached.crstLow = u.crstLow := by
  unfold Ef24.reached
  split <;> rfl

theorem reachGood_reached (u : Ef24) :
    u.reachGood = if u.crstLow = true then u.reached.holdCore else u.reached.holdCore.endReset := by
  have hreach : u.reachGood = if u.reached.crstLow = true then u.reached.holdCore else u.reached.holdCore.endReset := rfl
  rw [hreach, reached_crstLow]

/-! ## The hold timers of the supply -/

/-- A hold timer of R174 runs where the state and VCC meet its transition's condition. -/
theorem supplyHold_iff (u : Ef24) (c : SupplyChange) :
    Hold.supply c ∈ u.conclude.power.holds ↔ u.conclude.power.crosses c = true :=
  mem_conclude_holds u (.supply c)

/-- GOOD and LOW feed the chip. -/
theorem powers_iff (x : Supply) : x.powers = true ↔ x = .good ∨ x = .low := by
  cases x <;> simp [Supply.powers]

/-- Settles O58: the crossing, the changes one by one, and the conditions of their timers. -/
theorem supplyChangesByHold : Obligations.SupplyChangesByHold := by
  refine ⟨fun s millivolts => exec_vccCrossing millivolts s, ?changes, ?timers⟩
  case changes =>
    intro s
    have hrow := fun change => exec_supplyStateChange change s
    generalize s.settled = u at hrow ⊢
    intro u moved ran cleared
    refine ⟨fun c h => ?idle, fun h => ?rising, fun h => ?absent, fun h => ?low, fun h => ?good, fun h hchip => ?halted,
      fun h hchip => ?failing, fun h => ?lost, fun c hc h => ?reached⟩
    case idle => rw [hrow, supplyChange_idle h]
    case rising => rw [hrow, supplyChange_runs h]; rfl
    case absent => rw [hrow, supplyChange_runs h]; rfl
    case low => rw [hrow, supplyChange_runs h]; rfl
    case good => rw [hrow, supplyChange_runs h]; rfl
    case halted =>
      have hhalt : u.changeSupply .toFailing = _ := halt_some (u := u.setSupply .failing) hchip
      rw [hrow, supplyChange_runs h, hhalt]
      rfl
    case failing =>
      have hhalt : u.changeSupply .toFailing = _ := halt_none (u := u.setSupply .failing) hchip
      rw [hrow, supplyChange_runs h, hhalt]
      rfl
    case lost => rw [hrow, supplyChange_runs h]; rfl
    case reached =>
      intro kept held
      have hchange : u.changeSupply c = u.reachGood := by rcases hc with rfl | rfl <;> rfl
      rw [hrow, supplyChange_runs h, hchange, reachGood_reached]
      rfl
  case timers =>
    intro u p good failing runs
    have hgood : u.conclude.power.goodLevel = good := rfl
    have hfailing : u.conclude.power.failingLevel = failing := rfl
    have hruns : ∀ c, runs c ↔ u.conclude.power.crosses c = true := supplyHold_iff u
    simp only [hruns, Power.crosses, Bool.and_eq_true, beq_iff_eq, decide_eq_true_iff, powers_iff, conclude_supply,
      conclude_vcc, hgood, hfailing]
    exact ⟨Iff.rfl, Iff.rfl, Iff.rfl, Iff.rfl, Iff.rfl, Iff.rfl, Iff.rfl, Iff.rfl⟩

end Sys2Proof.Machine
end

section
/-! PROOFS. The core reset (Chapter 12): /CRST, the core reset values, the start-up posts (R125, R144, R166, R178, R179). -/

namespace Sys2Proof.Machine

/-! ## /CRST -/

section
variable {u : Ef24}

theorem assertReset_running (h : u.coreRunning = true) :
    u.assertReset = { u.coreResetValues with
      crstLow := true, chip := none, save := { Save.reset with buffer := u.save.buffer } } := by
  unfold Ef24.assertReset
  dsimp only
  rcases (coreRunning_iff u).mp h with hchip | hchip | hchip
  · rw [hchip]; rfl
  · rw [hchip]; rfl
  · rw [hchip]; rfl

theorem assertReset_halted (h : u.chip = some .halted) :
    u.assertReset = { u.coreResetValues with crstLow := true, chip := none } := by
  rw [Ef24.assertReset]
  dsimp only
  rw [h]
  rfl

theorem assertReset_held (h : u.chip = none) : u.assertReset = { u with crstLow := true } := by
  rw [Ef24.assertReset]
  dsimp only
  rw [h]

theorem releaseReset_unpowered (h : u.power.supply.powers = false) : u.releaseReset = { u with crstLow := false } := by
  refine if_neg ?_
  rw [Bool.and_eq_true, not_and]
  exact fun _ => ne_true_of_eq_false h

/-- The buffer is drained, and the core reset ends. -/
theorem releaseReset_powered (hchip : u.chip = none) (h : u.power.supply.powers = true) :
    u.releaseReset = ({ u with crstLow := false } : Ef24).drainAll.endReset := by
  refine if_pos ?_
  rw [Bool.and_eq_true, Option.isNone_iff_eq_none]
  exact ⟨hchip, h⟩

end

/-! ## The start-up posts (R144, R166) -/

/-- The rollover's post stands somewhere among the others. -/
theorem startupPosts_split (u : Ef24) :
    ∃ before after : List Posting, u.missedPosts = before ++ after ∧
      u.startupPosts = before ++
        (if 0 < u.calendar.unreported then [(.dayRollover, 2, u.calendar.unreported)] else []) ++ after := by
  unfold Ef24.startupPosts placeAt
  generalize Config.startupOrder u.free % (u.missedPosts.length + 1) = place
  refine ⟨u.missedPosts.take place, u.missedPosts.drop place, (List.take_append_drop ..).symm, ?_⟩
  by_cases h : 0 < u.calendar.unreported
  · rw [if_pos h, if_pos h, List.append_assoc]
    rfl
  · rw [if_neg h, if_neg h, List.append_nil, List.take_append_drop]

/-- A slot as a core reset leaves it. -/
theorem saveReset_slot {k : Nat} (h : k < 8) : Save.reset.slot k = Slot.reset := table_get_replicate _ _ h

/-- Settles O59: /CRST by the chip state, the core reset values, and the posts and marks of a reset that ends. -/
theorem coreResetHoldsAndEnds : Obligations.CoreResetHoldsAndEnds := by
  refine ⟨?lines, fun u => rfl, ?save, powers_iff, ?ends⟩
  case lines =>
    intro s
    have hassert := exec_crstAssert s
    have hrelease := exec_crstRelease s
    generalize s.settled = u at hassert hrelease ⊢
    intro u
    refine ⟨fun hr => ?running, fun h => ?halted, fun h => ?held, fun h hpowers => ?unpowered, fun h hpowers => ?powered⟩
    case running => rw [hassert, assertReset_running hr]
    case halted => rw [hassert, assertReset_halted h]
    case held => rw [hassert, assertReset_held h]
    case unpowered => rw [hrelease, releaseReset_unpowered hpowers]
    case powered => rw [hrelease, releaseReset_powered h hpowers]; rfl
  case save =>
    refine ⟨rfl, rfl, rfl, rfl, rfl, rfl, rfl, rfl, fun k hk => ?_⟩
    rw [saveReset_slot hk]
    exact ⟨rfl, rfl, rfl⟩
  case ends =>
    intro u missed rollover
    obtain ⟨before, after, hmissed, hposts⟩ := startupPosts_split u
    refine ⟨before, after, u.clearPending.schedule, hmissed, ?_, fun i hi => clearPending_entry u hi⟩
    rw [endReset_eq, hposts]

end Sys2Proof.Machine
end

section
/-! PROOFS. The coin cell and retention (Chapter 12; R140, R158, R184, R185). -/

namespace Sys2Proof.Machine

/-! ## The cell, its comparator and the loss of retention -/

theorem setCell_fitted (u : Ef24) (level : Option Nat) :
    let fitted : Ef24 := { u with power := { u.power with vbat := level } }
    u.setCell level =
      if u.power.retained = false ∧ ∃ m, level = some m ∧ 1900 < m then fitted.backupReset else fitted := by
  intro fitted
  have hresets : (!fitted.power.retained && level.any (fun m => decide (1900 < m))) = true ↔
      u.power.retained = false ∧ ∃ m, level = some m ∧ 1900 < m := by
    rw [Bool.and_eq_true, Bool.not_eq_true', Option.any_eq_true]
    simp only [decide_eq_true_iff]
    rfl
  exact if_congr hresets rfl rfl

section
variable {u : Ef24}

theorem changeCoinLow_low (h : Hold.cellLow ∈ u.power.holds) :
    u.changeCoinLow = { u with power := { u.power with coinLow := true } } :=
  if_pos (List.contains_iff_mem.mpr h)

theorem changeCoinLow_good (hlow : Hold.cellLow ∉ u.power.holds) (h : Hold.cellGood ∈ u.power.holds) :
    u.changeCoinLow = { u with power := { u.power with coinLow := false } } :=
  (if_neg fun hmem => hlow (List.contains_iff_mem.mp hmem)).trans (if_pos (List.contains_iff_mem.mpr h))

theorem retentionLoss_runs (h : Hold.cellLost ∈ u.power.holds) : u.retentionLoss = u.loseRetention :=
  if_pos (by rw [List.contains_iff_mem.mpr h, Bool.true_or])

end

/-- The words a loss of retention changes lie within the strapped capacity. -/
theorem lostWords_lt (u : Ef24) : ∀ x ∈ u.lostWords, x.1 < 512 * Config.sramKiB u.sramCode := fun x hx => by
  have hkept := (List.mem_filter.mp hx).2
  exact of_decide_eq_true hkept

/-! ## The hold timers of the comparator -/

theorem supplied_iff (p : Power) :
    p.supplied = true ↔ (p.supply = .good ∨ p.supply = .low) ∨ p.vbat ≠ none := by
  rw [Power.supplied, Bool.or_eq_true, powers_iff, Option.isSome_iff_ne_none]

/-- With no cell fitted VBAT counts as below any level. -/
theorem cellBelow_iff (p : Power) (level : Nat) : p.cellBelow level = true ↔ ∀ m, p.vbat = some m → m < level := by
  rw [Power.cellBelow, Option.all_eq_true]
  simp only [decide_eq_true_iff]

theorem cellLowRuns_iff (p : Power) : p.holdRuns .cellLow = true ↔
    ((p.supply = .good ∨ p.supply = .low) ∨ p.vbat ≠ none) ∧ p.retained = true ∧ p.coinLow = false ∧
      ∀ m, p.vbat = some m → m < 2500 := by
  simp only [Power.holdRuns, Bool.and_eq_true, supplied_iff, Bool.not_eq_true', cellBelow_iff, and_assoc]

theorem cellGoodRuns_iff (p : Power) : p.holdRuns .cellGood = true ↔
    ((p.supply = .good ∨ p.supply = .low) ∨ p.vbat ≠ none) ∧ p.retained = true ∧ p.coinLow = true ∧
      ¬ ∀ m, p.vbat = some m → m < 2600 := by
  simp only [Power.holdRuns, Bool.and_eq_true, supplied_iff, Bool.not_eq_true', eq_false_of_iff (cellBelow_iff _ _),
    and_assoc]

theorem cellLostRuns_iff (p : Power) : p.holdRuns .cellLost = true ↔
    p.retained = true ∧ ¬ (p.supply = .good ∨ p.supply = .low) ∧ ∃ m, p.vbat = some m ∧ m < 1900 := by
  simp only [Power.holdRuns, Bool.and_eq_true, Bool.not_eq_true', eq_false_of_iff (powers_iff _), cellBelow_iff, and_assoc]
  cases p.vbat <;> simp

/-- Settles O60: the four rows, a domain left without a source, and the conditions of the timers. -/
theorem coinCellAndRetention : Obligations.CoinCellAndRetention := by
  refine ⟨?rows, ?source, ?timers⟩
  case rows =>
    intro s
    have hcell := fun level => exec_vbatChange level s
    have hcoin := exec_coinCellLowChange s
    have hloss := exec_retentionLoss s
    generalize s.settled = u at hcell hcoin hloss ⊢
    intro u
    refine ⟨fun level => ?cell, fun h => ?low, fun hlow h => ?good, fun h => ⟨u.lostWords, ?lost, lostWords_lt u⟩⟩
    case cell => rw [hcell, setCell_fitted]; rfl
    case low => rw [hcoin, changeCoinLow_low h]
    case good => rw [hcoin, changeCoinLow_good hlow h]
    case lost => rw [hloss, retentionLoss_runs h]; rfl
  case source =>
    intro u lost
    obtain ⟨hlost, hkept⟩ := settle_retention u
    exact ⟨fun h => hlost ((sourceLost_iff u).mpr h), fun h => hkept ((eq_false_of_iff (sourceLost_iff u)).mpr h)⟩
  case timers =>
    intro u p fed below
    simp only [mem_conclude_holds, cellLowRuns_iff, cellGoodRuns_iff, cellLostRuns_iff, conclude_supply, conclude_vbat,
      conclude_coinLow, conclude_retained]
    exact ⟨Iff.rfl, Iff.rfl, Iff.rfl⟩

end Sys2Proof.Machine
end
